-- ==== Sys2Proof/Word.lean ====
section
/-! DEFINITION. The word types of LDCORE and the two line levels (00_scope.md R14, R16). -/

namespace Sys2Proof

/-- A 32-bit unsigned value: an Interval Sample, a frame, a time in microseconds (30_encoding.md R90, R93). -/
abbrev Word := BitVec 32

/-- An 8-bit unsigned value: an operand field, the payload, a height (30_encoding.md R111, R96, R104). -/
abbrev Byte := BitVec 8

/-- One 64-bit command word (30_encoding.md R110). -/
abbrev CmdWord := BitVec 64

/-- A line level (00_scope.md R16). -/
inductive Level where
  | low
  | high
  deriving DecidableEq, Repr

/-- The other level, `¬L` (00_scope.md R16). -/
def Level.flip : Level → Level
  | .low => .high
  | .high => .low

/-- The bit a level is stored in: 0 for LOW and 1 for HIGH (30_encoding.md R92). -/
def Level.toNat : Level → Nat
  | .low => 0
  | .high => 1

/-- The level a stored bit stands for (30_encoding.md R92). -/
def Level.ofBit : Bool → Level
  | false => .low
  | true => .high

end Sys2Proof
end

