-- ==== Sys2Proof/Config.lean ====
section
/-! DEFINITION. The parameters of a model of LDCORE (00_scope.md R10), the constants the source states,
and the one free value that no step supplies. -/

namespace Sys2Proof.Config

/-- `SYNC_LOW_BP`: the sync low lasts longer than this many bit-periods (00_scope.md R10). -/
def syncLowBp : Nat := 40

/-- `SYNC_HIGH_BP`: the sync high pulse lasts less than this many bit-periods (00_scope.md R10). -/
def syncHighBp : Nat := 2

/-- `FRAME_BITS`: bits in a frame (00_scope.md R10). -/
def frameBits : Nat := 32

/-- The parameters whose value the source leaves to the model instance (00_scope.md R10), and the input line,
which the command word cannot carry (10_state.md R38, 44_interface.md R280). -/
structure Params where
  /-- `N`, the ring buffer's slot count -/
  n : Nat
  /-- `BP`, one bit-period in microseconds -/
  bp : Nat
  /-- `IDLE_THRESHOLD_US` -/
  idleThreshold : Word
  /-- `SENTINEL` -/
  sentinel : Word
  /-- `MAGIC` -/
  magic : BitVec 12
  /-- `TYPE_LSB` -/
  typeLsb : Nat
  /-- `TYPE_TAG` -/
  typeTag : BitVec 12
  /-- `EVEN_EDGE_LEVEL` -/
  evenEdgeLevel : Level
  /-- `ONE_LEVEL` -/
  oneLevel : Level
  /-- which input line INIT configures; nothing in LDCORE depends on it -/
  line : Nat
  deriving DecidableEq, Repr

/-- `BUDGET_INIT`, half a bit-period rounded down (00_scope.md R10). -/
def Params.budgetInit (c : Params) : Nat := c.bp / 2

/-- The test configuration TC of 92_eei_decisions.md D10. It is no claim about a real desk (log 2). -/
def tc : Params where
  n := 80
  bp := 1000
  idleThreshold := 50000
  sentinel := 0xFFFFFFFF
  magic := 0x5A1
  typeLsb := 9
  typeTag := 0x802
  evenEdgeLevel := .low
  oneLevel := .high
  line := 0

/-- The test configuration TC4: TC with N = 4 (92_eei_decisions.md D10). -/
def tc4 : Params := { tc with n := 4 }

/-- FREE VALUE, DESIGN CHOICE (log 5): what slot `s` of BUF holds while no PUSH has written it since the last
INIT. The spec leaves it unspecified (10_state.md R50, 93_implementation_defined.md U5). -/
opaque unwrittenSlot (s : Nat) : Word

end Sys2Proof.Config
end

