-- ==== Sys2Proof/Syntax.lean ====
section
/-! DEFINITION. The operations of LDCORE, one constructor for each row of spec/opcode_table.json
(30_encoding.md R112). -/

namespace Sys2Proof

/-- A decoded command. Operand types carry the field widths of 30_encoding.md R111, R114. -/
inductive Instr where
  /-- INIT (44_interface.md R280) -/
  | init
  /-- TEARDOWN (44_interface.md R284) -/
  | teardown
  /-- POLL (42_frame_decoder.md R200) -/
  | poll
  /-- EDGE: the level and the time the handler read (41_edge_capture.md R170) -/
  | edge (lvl : Level) (now : Word)
  /-- PUSH: the sample (40_ring_buffer.md R132) -/
  | push (v : Word)
  /-- PEEK: the logical offset (40_ring_buffer.md R135) -/
  | peek (i : Byte)
  /-- SNAP (40_ring_buffer.md R137) -/
  | snap
  /-- COMMIT: the expected tail, then the count (40_ring_buffer.md R138) -/
  | commit (et c : Byte)
  /-- VALID: a frame (43_frame_validation.md R250) -/
  | valid (w : Word)
  /-- PARITY: a frame (43_frame_validation.md R252) -/
  | parity (w : Word)
  /-- ISNUM: a frame (43_frame_validation.md R254) -/
  | isnum (w : Word)
  /-- HEIGHT: a frame (43_frame_validation.md R256) -/
  | height (w : Word)
  deriving DecidableEq, Repr

end Sys2Proof
end

