-- ==== Sys2Proof/WellFormed.lean ====
section
/-! DEFINITION. Two checks: which parameter values make a model instance (00_scope.md R11, R12,
30_encoding.md R98), and which 64-bit words are legal commands (30_encoding.md R113), the latter read from the match
and mask columns of spec/opcode_table.json and so independent of the decoder. A decoded instruction needs no check of
its own: every operand value of its types is legal (30_encoding.md R114). -/

namespace Sys2Proof

/-- TYPE_TAG and MAGIC agree on the frame bits their fields share (30_encoding.md R98 clause (c)):
`TYPE_TAG[11 : 20-t] = MAGIC[t-9 : 0]`. -/
def Config.Params.sharedBitsAgree (c : Config.Params) : Bool :=
  c.typeTag.toNat / 2 ^ (20 - c.typeLsb) == c.magic.toNat % 2 ^ (c.typeLsb - 8)

/-- The constraints a model instance meets: N even and 2 ≤ N ≤ 256 (R11); 1 ≤ BP and 40·BP < 2^32 (R12);
9 ≤ TYPE_LSB ≤ 19 and agreement on the shared bits (30_encoding.md R98). -/
def Config.Params.wf (c : Config.Params) : Bool :=
  c.n % 2 == 0 && decide (2 ≤ c.n) && decide (c.n ≤ 256)
    && decide (1 ≤ c.bp) && decide (Config.syncLowBp * c.bp < 2 ^ 32)
    && decide (9 ≤ c.typeLsb) && decide (c.typeLsb ≤ 19) && c.sharedBitsAgree

/-- One row of spec/opcode_table.json: a word is this command iff its masked bits equal the match. -/
structure OpcodeRow where
  mnemonic : String
  pattern : CmdWord
  mask : CmdWord
  deriving DecidableEq, Repr

/-- spec/opcode_table.json, in its order. -/
def opcodeTable : List OpcodeRow :=
  [ ⟨"INIT", 0x0000000000000001, 0xFFFFFFFFFFFFFFFF⟩,
    ⟨"TEARDOWN", 0x0000000000000002, 0xFFFFFFFFFFFFFFFF⟩,
    ⟨"POLL", 0x0000000000000003, 0xFFFFFFFFFFFFFFFF⟩,
    ⟨"EDGE", 0x0000000000000004, 0x00000000FFFFFFEF⟩,
    ⟨"PUSH", 0x0000000000000005, 0x00000000FFFFFFFF⟩,
    ⟨"PEEK", 0x0000000000000006, 0xFFFFFFFFFFFF00FF⟩,
    ⟨"SNAP", 0x0000000000000007, 0xFFFFFFFFFFFFFFFF⟩,
    ⟨"COMMIT", 0x0000000000000008, 0xFFFFFFFFFF0000FF⟩,
    ⟨"VALID", 0x0000000000000009, 0x00000000FFFFFFFF⟩,
    ⟨"PARITY", 0x000000000000000A, 0x00000000FFFFFFFF⟩,
    ⟨"ISNUM", 0x000000000000000B, 0x00000000FFFFFFFF⟩,
    ⟨"HEIGHT", 0x000000000000000C, 0x00000000FFFFFFFF⟩ ]

/-- Does the word have the row's fixed bits? -/
def OpcodeRow.fits (r : OpcodeRow) (w : CmdWord) : Bool := w &&& r.mask == r.pattern

/-- A word is a legal command iff some row of the table fits it (30_encoding.md R113). -/
def legalWord (w : CmdWord) : Bool := opcodeTable.any (·.fits w)

end Sys2Proof
end

