-- ==== Sys2Proof/Decode.lean ====
section
/-! DEFINITION. The decoder of 30_encoding.md R113, R114, total on every 64-bit word; the encoder of R115; the host's
`decodeTableWord`; and the assembler's view of a command (R118, R119). -/

namespace Sys2Proof

/-- Why a word is illegal (30_encoding.md R113). Each of them is the refusal R_ILLEGAL_COMMAND
(60_exceptions.md R305). -/
inductive DecodeError where
  /-- OP is 0x0, 0xD, 0xE or 0xF -/
  | illegalOpcode
  /-- a bit of 7..5 or 31..24 is 1 -/
  | reservedBit
  /-- field L, A, B or V is nonzero and the operation does not use it -/
  | unusedFieldL
  | unusedFieldA
  | unusedFieldB
  | unusedFieldV
  deriving DecidableEq, Repr

/-- The fields of a command word (30_encoding.md R111). -/
structure Fields where
  op : BitVec 4
  l : BitVec 1
  reservedLow : BitVec 3
  a : Byte
  b : Byte
  reservedHigh : Byte
  v : Word
  deriving DecidableEq, Repr

/-- Cut a word into its fields (30_encoding.md R111). -/
def splitWord (w : CmdWord) : Fields where
  op := w.extractLsb' 0 4
  l := w.extractLsb' 4 1
  reservedLow := w.extractLsb' 5 3
  a := w.extractLsb' 8 8
  b := w.extractLsb' 16 8
  reservedHigh := w.extractLsb' 24 8
  v := w.extractLsb' 32 32

/-- Which operations use field L (30_encoding.md R111). -/
def usesL (op : BitVec 4) : Bool := op == 0x4

/-- Which operations use field A (30_encoding.md R111). -/
def usesA (op : BitVec 4) : Bool := op == 0x6 || op == 0x8

/-- Which operations use field B (30_encoding.md R111). -/
def usesB (op : BitVec 4) : Bool := op == 0x8

/-- Which operations use field V (30_encoding.md R111). -/
def usesV (op : BitVec 4) : Bool :=
  op == 0x4 || op == 0x5 || op == 0x9 || op == 0xA || op == 0xB || op == 0xC

/-- The operation a legal word names (30_encoding.md R112), none for the opcodes 0x0, 0xD, 0xE and 0xF. -/
def instrOfFields (f : Fields) : Option Instr :=
  match f.op.toNat with
  | 1 => some .init
  | 2 => some .teardown
  | 3 => some .poll
  | 4 => some (.edge (Level.ofBit (f.l == 1)) f.v)
  | 5 => some (.push f.v)
  | 6 => some (.peek f.a)
  | 7 => some .snap
  | 8 => some (.commit f.b f.a)
  | 9 => some (.valid f.v)
  | 10 => some (.parity f.v)
  | 11 => some (.isnum f.v)
  | 12 => some (.height f.v)
  | _ => none

/-- The decoding procedure of 30_encoding.md R114. -/
def decode (w : CmdWord) : Except DecodeError Instr :=
  let f := splitWord w
  match instrOfFields f with
  | none => .error .illegalOpcode
  | some i =>
    if f.reservedLow != 0 || f.reservedHigh != 0 then .error .reservedBit
    else if !usesL f.op && f.l != 0 then .error .unusedFieldL
    else if !usesA f.op && f.a != 0 then .error .unusedFieldA
    else if !usesB f.op && f.b != 0 then .error .unusedFieldB
    else if !usesV f.op && f.v != 0 then .error .unusedFieldV
    else .ok i

/-- `V·2^32 + B·2^16 + A·2^8 + L·2^4 + OP` (30_encoding.md R115). -/
def packWord (op l : Nat) (a b : Byte) (v : Word) : CmdWord :=
  BitVec.ofNat 64 (v.toNat * 2 ^ 32 + b.toNat * 2 ^ 16 + a.toNat * 2 ^ 8 + l * 2 ^ 4 + op)

/-- The command word of an operation (30_encoding.md R112, R115); a field it does not use is 0. -/
def encode : Instr → CmdWord
  | .init => packWord 0x1 0 0 0 0
  | .teardown => packWord 0x2 0 0 0 0
  | .poll => packWord 0x3 0 0 0 0
  | .edge lvl now => packWord 0x4 lvl.toNat 0 0 now
  | .push v => packWord 0x5 0 0 0 v
  | .peek i => packWord 0x6 0 i 0 0
  | .snap => packWord 0x7 0 0 0 0
  | .commit et c => packWord 0x8 0 c et 0
  | .valid w => packWord 0x9 0 0 0 w
  | .parity w => packWord 0xA 0 0 0 w
  | .isnum w => packWord 0xB 0 0 0 w
  | .height w => packWord 0xC 0 0 0 w

/-- The instruction the decoder reads from the `nbits` low bits of `w`, the bits above them 0. A command word is one
64-bit word, so nothing is laid out in bytes (20_memory.md R63, 30_encoding.md R117). -/
def decodeTableWord (nbits w : Nat) : Option Instr :=
  match decode (BitVec.ofNat 64 (w % 2 ^ nbits)) with
  | .ok i => some i
  | .error _ => none

/-- The name spec/opcode_table.json gives the operation (30_encoding.md R112). -/
def Instr.mnemonic : Instr → String
  | .init => "INIT"
  | .teardown => "TEARDOWN"
  | .poll => "POLL"
  | .edge _ _ => "EDGE"
  | .push _ => "PUSH"
  | .peek _ => "PEEK"
  | .snap => "SNAP"
  | .commit _ _ => "COMMIT"
  | .valid _ => "VALID"
  | .parity _ => "PARITY"
  | .isnum _ => "ISNUM"
  | .height _ => "HEIGHT"

/-- The operands of a command line (30_encoding.md R118), numbers in decimal. -/
def Instr.operandText : Instr → List String
  | .edge lvl now => [if lvl = .low then "L" else "H", toString now.toNat]
  | .push v => [toString v.toNat]
  | .peek i => [toString i.toNat]
  | .commit et c => [toString et.toNat, toString c.toNat]
  | .valid w => [toString w.toNat]
  | .parity w => [toString w.toNat]
  | .isnum w => [toString w.toNat]
  | .height w => [toString w.toNat]
  | .init => []
  | .teardown => []
  | .poll => []
  | .snap => []

/-- One assembler line for a command: mnemonic, then operands separated by commas (30_encoding.md R118). -/
def Instr.text (i : Instr) : String :=
  match i.operandText with
  | [] => i.mnemonic
  | ops => i.mnemonic ++ " " ++ String.intercalate ", " ops

/-- A line of assembler: a command, or one of the pseudo-instructions of 30_encoding.md R119. -/
inductive AsmLine where
  | command (i : Instr)
  | rise (now : Word)
  | fall (now : Word)
  | pushIdle
  | wait (us : Word)
  deriving DecidableEq, Repr

/-- The expansion of a line (30_encoding.md R119) and the assembler's notion of `now` after it: only WAIT advances
that notion, and it emits no command. -/
def AsmLine.expand (c : Config.Params) (asmNow : Word) : AsmLine → List Instr × Word
  | .command i => ([i], asmNow)
  | .rise now => ([.edge .high now], asmNow)
  | .fall now => ([.edge .low now], asmNow)
  | .pushIdle => ([.push c.sentinel], asmNow)
  | .wait us => ([], asmNow + us)

/-- The command words of a list of lines, in order (30_encoding.md R118, R119). -/
def assemble (c : Config.Params) (asmNow : Word) : List AsmLine → List CmdWord
  | [] => []
  | line :: rest =>
    let (is, asmNow') := line.expand c asmNow
    is.map encode ++ assemble c asmNow' rest

end Sys2Proof
end

