-- ==== Sys2Proof/Machine/State.lean ====
section
/-! DEFINITION. The state of LDCORE as plain data (10_state.md R30), the events that drive it, what a step reports,
and the state a run begins in. -/

namespace Sys2Proof.Machine

open Sys2Proof (Word Byte CmdWord Level)

/-- The agents that issue commands (00_scope.md R6, 30_encoding.md R116). -/
inductive Agent where
  /-- the edge handler, in interrupt context -/
  | producer
  /-- the decode attempt, or a harness standing in for it, in polling context -/
  | consumer
  /-- the surrounding application, in polling context -/
  | host
  deriving DecidableEq, Repr

/-- The consumer's position in the decode algorithm (10_state.md R42). -/
inductive Phase where
  /-- PH_IDLE: no POLL in progress -/
  | idle
  /-- PH_SNAP: POLL accepted, snapshot not taken -/
  | snap
  /-- PH_SYNC: synchronization search -/
  | sync
  /-- PH_BITS: bit reconstruction -/
  | bits
  /-- PH_COMMIT: 32 bits produced, commit not attempted -/
  | commit
  deriving DecidableEq, Repr

/-- The refusals a command can be answered with (60_exceptions.md R305). A refused command changes no state and does
not end the run, so a refusal is reported in a next state (log 9). -/
inductive RefusalCode where
  /-- R_ILLEGAL_COMMAND -/
  | illegalCommand
  /-- R_WRONG_CONTEXT -/
  | wrongContext
  /-- R_NOT_ACTIVE -/
  | notActive
  /-- R_ALREADY_ACTIVE -/
  | alreadyActive
  /-- R_POLL_IN_PROGRESS -/
  | pollInProgress
  deriving DecidableEq, Repr

/-- Why a POLL answered absent (60_exceptions.md R303). -/
inductive AbsentReason where
  /-- A_NO_SYNC -/
  | noSync
  /-- A_SHORT -/
  | short
  /-- A_RACE -/
  | race
  /-- A_MAGIC -/
  | magic
  /-- A_PARITY -/
  | parity
  /-- A_NOT_NUMBER -/
  | notNumber
  /-- A_ZERO_HEIGHT -/
  | zeroHeight
  deriving DecidableEq, Repr

/-- The value an operation returns (30_encoding.md R104 to R107). -/
inductive Result where
  /-- PUSH, EDGE and TEARDOWN return no value -/
  | noValue
  /-- INIT: OK -/
  | initOk
  /-- INIT: INIT_FAIL -/
  | initFail
  /-- POLL: a height in centimeters -/
  | pollHeight (h : Byte)
  /-- POLL: absent -/
  | pollAbsent (r : AbsentReason)
  /-- PEEK: NONE or SOME -/
  | sample (v : Option Word)
  /-- SNAP: the tail -/
  | tailIndex (t : Byte)
  /-- COMMIT: did it succeed? -/
  | committed (ok : Bool)
  /-- VALID, PARITY, ISNUM -/
  | truth (b : Bool)
  /-- HEIGHT: a height in centimeters, 0 allowed -/
  | heightOf (h : Byte)
  deriving DecidableEq, Repr

/-- What a step reports to the environment (60_exceptions.md R301; a fault is the step's own outcome). -/
inductive Report where
  /-- nothing: no step yet, or a step of an operation that has not returned -/
  | nothing
  /-- the operation returned -/
  | result (r : Result)
  /-- the command was refused -/
  | refused (c : RefusalCode)
  /-- EDGE while capture is inactive -/
  | noOp
  deriving DecidableEq, Repr

/-- What the environment supplies with a command: the draws of INIT (44_interface.md R280) and the values TEARDOWN
leaves unspecified (R285). FREE VALUES: nothing constrains them (log 7). -/
structure Draw where
  /-- INIT's outcome is OK -/
  initOk : Bool
  /-- LAST_US after INIT or TEARDOWN -/
  lastUs : Word
  /-- IDLE after INIT or TEARDOWN -/
  idle : Bool
  /-- HEAD after TEARDOWN, taken modulo N -/
  head : Nat
  /-- TAIL after TEARDOWN, taken modulo N -/
  tail : Nat
  deriving DecidableEq, Repr

/-- One event of a run, chosen by the environment (20_memory.md R72, 30_encoding.md R110). -/
inductive Event where
  /-- an agent issues a command word -/
  | issue (agent : Agent) (word : CmdWord) (draw : Draw)
  /-- the consumer's turn: one step of its decode attempt (42_frame_decoder.md R214) -/
  | tick
  deriving DecidableEq, Repr

/-- The configuration of the input line (10_state.md R38, 44_interface.md R281). No operation reads it. -/
structure LineConfig where
  /-- digital input with pull-up -/
  pulledUpInput : Bool
  /-- interrupt on both edges enabled -/
  bothEdgeInterrupt : Bool
  /-- the EDGE step is the handler -/
  handlerInstalled : Bool
  deriving DecidableEq, Repr

/-- Before the first INIT nothing is configured. -/
def LineConfig.unconfigured : LineConfig := ⟨false, false, false⟩

/-- What INIT configures (44_interface.md R281). -/
def LineConfig.capturing : LineConfig := ⟨true, true, true⟩

/-- TEARDOWN disables the interrupt and uninstalls the handler (44_interface.md R284); the spec does not say that the
direction or the pull-up changes (log 12). -/
def LineConfig.released (l : LineConfig) : LineConfig :=
  { l with bothEdgeInterrupt := false, handlerInstalled := false }

/-- The ring buffer's storage: the slots written since the last INIT, each a whole 32-bit word (20_memory.md R60,
R63), in the canonical form `Memory.wf`. A slot not listed has not been written (log 5). -/
abbrev Memory := List (Nat × Word)

/-- The canonical form: slots strictly rising. -/
def Memory.wf (m : Memory) : Bool := decide (m.Pairwise fun x y => x.1 < y.1)

/-- The state of LDCORE (10_state.md R30), and below it the model's own fields. -/
structure State where
  /-- the parameters of the model instance, constants (00_scope.md R10) -/
  cfg : Config.Params
  /-- `BUF` (R31) -/
  buf : Memory
  /-- `HEAD`, next write position (R32) -/
  head : Nat
  /-- `TAIL`, oldest unread position (R33) -/
  tail : Nat
  /-- `LAST_US`, time of the previous accepted edge (R35) -/
  lastUs : Word
  /-- `IDLE` (R36) -/
  idle : Bool
  /-- `ACTIVE` (R37) -/
  active : Bool
  /-- `PHASE` (R42) -/
  phase : Phase
  /-- `ET`, the snapshot of the tail (R41) -/
  et : Nat
  /-- `Q`, the next offset the synchronization search peeks (R41) -/
  q : Nat
  /-- `PREV`, the sample at offset Q - 1 (R41) -/
  prev : Word
  /-- `P`, the offset of the interval consumed last (R41) -/
  p : Nat
  /-- `LVL`, the tracked level (R41) -/
  lvl : Level
  /-- `BUDGET`, an exact natural (R41, 42_frame_decoder.md R213) -/
  budget : Nat
  /-- `WORD`, the frame bits so far (R41) -/
  word : Word
  /-- `NB`, the count of bits (R41) -/
  nb : Nat
  /-- the input line's configuration (R38) -/
  line : LineConfig
  /-- the events still to come, first the next (the model's own, log 6) -/
  inbox : List Event
  /-- the agent that issued the command being executed (the model's own, log 7) -/
  agent : Agent
  /-- the environment's inputs to the command being executed (the model's own, log 7) -/
  draw : Draw
  /-- what the last step reported (the model's own, log 10) -/
  report : Report
  deriving DecidableEq, Repr

/-- The one fault of LDCORE (60_exceptions.md R304). -/
inductive Fault where
  /-- F_COMMIT_RANGE, raised by COMMIT when TAIL is the expected tail and the count exceeds SIZE (R139). It records
  the expected tail, the count and SIZE, and the run ends (R324), as the spec says: safe. -/
  | commitRange (et count size : Nat)
  deriving DecidableEq, Repr

/-- Reasons a step has no meaning. No step of this model answers with one: every command has its effect, and the
spec's own refusals are next states (`RefusalCode`). -/
inductive Refusal where
  /-- An arm of `exec` that has no meaning yet; none is left. It would be raised by `exec` alone: safe. -/
  | notModelled (mnemonic : String)
  deriving DecidableEq, Repr

/-- The outcome of one step of LDCORE. -/
abbrev StepResult := Host.Outcome State Fault Refusal

/-- The state a run of the instance `c` begins in: capture is inactive and waits for INIT (10_state.md R50,
70_reset_and_hazards.md R342; log 1). ACTIVE and PHASE are the spec's; every other element is unspecified there and
named here (DESIGN CHOICE, logs 3, 4, 5, 12), as are the model's own fields (logs 6, 7, 10). -/
def State.initial (c : Config.Params) : State where
  cfg := c
  buf := []
  head := 0
  tail := 0
  lastUs := 0
  idle := false
  active := false
  phase := .idle
  et := 0
  q := 0
  prev := 0
  p := 0
  lvl := .low
  budget := 0
  word := 0
  nb := 0
  line := LineConfig.unconfigured
  inbox := []
  agent := .host
  draw := ⟨false, 0, false, 0, 0⟩
  report := .nothing

/-- The state the machine starts in, for the test configuration TC (DESIGN CHOICE, log 2). -/
def State.reset : State := State.initial Config.tc

end Sys2Proof.Machine
end

