-- ==== Sys2Proof/Machine/Operands.lean ====
section
/-! DEFINITION. The values operations compute from samples, levels and frames: the parity keys of 10_state.md R39, R40,
the delta of 41_edge_capture.md R171, the timing tests of 42_frame_decoder.md R205, and the frame fields of
30_encoding.md R94 to R99. -/

namespace Sys2Proof.Machine

/-- `EdgeLevelFor(s)`: the level of the edge accepted while HEAD is slot `s` (10_state.md R39). -/
def edgeLevelFor (c : Config.Params) (s : Nat) : Level :=
  if s % 2 = 0 then c.evenEdgeLevel else c.evenEdgeLevel.flip

/-- `IntervalLevel(s)`: the line's level during the interval recorded in slot `s` (10_state.md R40). -/
def intervalLevel (c : Config.Params) (s : Nat) : Level := (edgeLevelFor c s).flip

/-- `now ⊖32 LAST_US` (41_edge_capture.md R171). -/
def edgeDelta (now lastUs : Word) : Word := now - lastUs

/-- A sample longer than SYNC_LOW_BP bit-periods, compared as exact numbers (42_frame_decoder.md R205). -/
def isSyncLow (c : Config.Params) (v : Word) : Bool := decide (Config.syncLowBp * c.bp < v.toNat)

/-- A sample shorter than SYNC_HIGH_BP bit-periods (42_frame_decoder.md R205). -/
def isSyncHigh (c : Config.Params) (v : Word) : Bool := decide (v.toNat < Config.syncHighBp * c.bp)

/-- `Bit(l)`: 1 iff the level is ONE_LEVEL (42_frame_decoder.md R210). -/
def bitOf (c : Config.Params) (l : Level) : Bool := l == c.oneLevel

/-- Shift one bit in at bit 0 (42_frame_decoder.md R210). -/
def shiftIn (w : Word) (b : Bool) : Word := (w <<< 1) + (if b then 1 else 0)

/-- Frame bits [31:20] (30_encoding.md R94). -/
def magicField (w : Word) : BitVec 12 := w.extractLsb' 20 12

/-- Frame bits [TYPE_LSB+11 : TYPE_LSB] (30_encoding.md R95, 43_frame_validation.md R255). -/
def typeField (c : Config.Params) (w : Word) : BitVec 12 := w.extractLsb' c.typeLsb 12

/-- Frame bits [8:1] (30_encoding.md R96, 43_frame_validation.md R257). -/
def payload (w : Word) : Byte := w.extractLsb' 1 8

/-- The four bits of a nibble in the other order (43_frame_validation.md R258). -/
def rev4 (b : BitVec 4) : BitVec 4 :=
  BitVec.ofBool (b.getLsbD 0) ++ BitVec.ofBool (b.getLsbD 1) ++ BitVec.ofBool (b.getLsbD 2)
    ++ BitVec.ofBool (b.getLsbD 3)

/-- Each nibble reversed, then the two swapped (43_frame_validation.md R258). -/
def rev8 (b : Byte) : Byte := rev4 (b.extractLsb' 0 4) ++ rev4 (b.extractLsb' 4 4)

/-- The height a frame carries, in centimeters (43_frame_validation.md R256). -/
def heightField (w : Word) : Byte := rev8 (payload w)

/-- The magic check (43_frame_validation.md R251). -/
def magicMatches (c : Config.Params) (w : Word) : Bool := magicField w == c.magic

/-- `PARITY_FN`: true of every frame (43_frame_validation.md R252, 90_conflicts.md C1; log 13). -/
def parityFn (_w : Word) : Bool := true

/-- The frame is valid (43_frame_validation.md R250). -/
def frameValid (c : Config.Params) (w : Word) : Bool := magicMatches c w && parityFn w

/-- The type field carries the number tag (43_frame_validation.md R254). -/
def typeMatches (c : Config.Params) (w : Word) : Bool := typeField c w == c.typeTag

/-- `Classify(w)`: the result of a POLL whose commit succeeded, the first failing check first
(42_frame_decoder.md R218, R219). -/
def classify (c : Config.Params) (w : Word) : Result :=
  if !magicMatches c w then .pollAbsent .magic
  else if !parityFn w then .pollAbsent .parity
  else if !typeMatches c w then .pollAbsent .notNumber
  else if heightField w == 0 then .pollAbsent .zeroHeight
  else .pollHeight (heightField w)

end Sys2Proof.Machine
end

