-- ==== Sys2Proof/Machine/Flags.lean ====
section
/-! DEFINITION. LDCORE's status bits are IDLE and ACTIVE (10_state.md R45). ACTIVE is set and cleared by INIT and
TEARDOWN alone; the computations of IDLE stand here. -/

namespace Sys2Proof.Machine

/-- IDLE after the idle test of an edge: set when the delta exceeds the threshold, never cleared by it
(41_edge_capture.md R173). -/
def idleMarked (c : Config.Params) (idle : Bool) (delta : Word) : Bool :=
  idle || decide (c.idleThreshold.toNat < delta.toNat)

/-- The sample an accepted edge records (41_edge_capture.md R174). -/
def recordedSample (c : Config.Params) (idle : Bool) (delta : Word) : Word :=
  if idle then c.sentinel else delta

/-- IDLE after an edge: the mark is cleared by an accepted edge (41_edge_capture.md R174) and kept by a rejected one
(R176). -/
def idleAfterEdge (accepted idleMark : Bool) : Bool :=
  if accepted then false else idleMark

end Sys2Proof.Machine
end

