-- ==== Sys2Proof/Machine/Ops.lean ====
section
/-! DEFINITION. The operations the meanings share: the slots of BUF, the ring buffer's four atomic accesses
(20_memory.md R65), how a command is answered (60_exceptions.md R301, R305), and the edge interrupt. LDCORE has no
exception to take and no return instruction (R300, R314): taking its one interrupt is `takeEdge`, and the return from it
changes nothing. -/

namespace Sys2Proof.Machine

/-- What PUSH stored in a slot since the last INIT, if anything (10_state.md R31). -/
def Memory.read : Memory → Nat → Option Word
  | [], _ => none
  | (k, v) :: rest, s => if s = k then some v else Memory.read rest s

/-- Store a word in a slot, keeping the slots strictly rising. -/
def Memory.write : Memory → Nat → Word → Memory
  | [], s, w => [(s, w)]
  | (k, v) :: rest, s, w =>
    if s < k then (s, w) :: (k, v) :: rest
    else if s = k then (s, w) :: rest
    else (k, v) :: Memory.write rest s w

/-- The content of slot `k` of BUF; unspecified, so a free value, while nothing has written it (10_state.md R50,
log 5). -/
def State.slot (s : State) (k : Nat) : Word := (s.buf.read k).getD (Config.unwrittenSlot k)

/-- `SIZE` (10_state.md R34, 40_ring_buffer.md R130). -/
def State.size (s : State) : Nat := (s.cfg.n + s.head - s.tail) % s.cfg.n

/-- The slot of a logical offset (20_memory.md R61). -/
def State.slotOf (s : State) (i : Nat) : Nat := (s.tail + i) % s.cfg.n

/-- The same state, with what its step reports. -/
def State.reporting (s : State) (r : Report) : State := { s with report := r }

/-- The operation completes with a result (60_exceptions.md R301). -/
def complete (r : Result) (s : State) : StepResult := .next (s.reporting (.result r))

/-- The command is refused: nothing changes and the run goes on (60_exceptions.md R305; log 9). -/
def refuse (c : RefusalCode) (s : State) : StepResult := .next (s.reporting (.refused c))

/-- `require issuing agent = a` (30_encoding.md R116, 60_exceptions.md R306 check 2). -/
def requireAgent (a : Agent) (s : State) (k : StepResult) : StepResult :=
  if s.agent = a then k else refuse .wrongContext s

/-- `require ACTIVE = 1` (60_exceptions.md R306 check 3). -/
def requireActive (s : State) (k : StepResult) : StepResult :=
  if s.active then k else refuse .notActive s

/-- `require PHASE = PH_IDLE` (60_exceptions.md R306 check 4). -/
def requirePhaseIdle (s : State) (k : StepResult) : StepResult :=
  if s.phase = .idle then k else refuse .pollInProgress s

/-- The atomic access of PUSH: append a sample at HEAD, dropping the oldest when the buffer is full
(40_ring_buffer.md R132, R133). -/
def pushSample (v : Word) (s : State) : State :=
  let next := (s.head + 1) % s.cfg.n
  { s with
    tail := if next = s.tail then (s.tail + 1) % s.cfg.n else s.tail
    buf := s.buf.write s.head v
    head := next }

/-- The atomic access of PEEK: the sample at a logical offset from the current tail (40_ring_buffer.md R135). -/
def peekAt (i : Nat) (s : State) : Option Word :=
  if s.size ≤ i then none else some (s.slot (s.slotOf i))

/-- The atomic access of SNAP (40_ring_buffer.md R137). -/
def snapTail (s : State) : Nat := s.tail

/-- What the atomic access of COMMIT does. -/
inductive CommitOutcome where
  /-- the tail was not the expected one: nothing changes -/
  | stale
  /-- the count exceeds SIZE -/
  | outOfRange
  /-- the tail advances to this slot -/
  | advanced (tail : Nat)
  deriving DecidableEq, Repr

/-- The atomic access of COMMIT: compare the tail first, then the range, then advance (40_ring_buffer.md R138,
60_exceptions.md R306 check 6). -/
def commitTail (et c : Nat) (s : State) : CommitOutcome :=
  if s.tail ≠ et then .stale
  else if s.size < c then .outOfRange
  else .advanced (s.slotOf c)

/-- The edge interrupt is taken: the handler reads the line's level and the time and runs EDGE as one step
(41_edge_capture.md R170, 60_exceptions.md R313). It saves nothing, and neither reads nor writes a register of the
decoder. -/
def takeEdge (lvl : Level) (now : Word) (s : State) : State :=
  let delta := edgeDelta now s.lastUs
  let mark := idleMarked s.cfg s.idle delta
  if lvl = edgeLevelFor s.cfg s.head then
    { pushSample (recordedSample s.cfg mark delta) s with
      idle := idleAfterEdge true mark
      lastUs := now }
  else { s with idle := idleAfterEdge false mark }

/-- The agent that may issue a command word (30_encoding.md R116): the operation's own agent, and the host for the
words any agent may issue. Used only to place a word where the next step fetches it (log 8). -/
def issuerOf (w : CmdWord) : Agent :=
  match (w.extractLsb' 0 4).toNat with
  | 4 => .producer
  | 5 => .producer
  | 6 => .consumer
  | 7 => .consumer
  | 8 => .consumer
  | _ => .host

end Sys2Proof.Machine
end

