-- ==== Sys2Proof/Machine/EdgeCapture.lean ====
section
/-! DEFINITION. EDGE (41_edge_capture.md R170). -/

namespace Sys2Proof.Machine

/-- EDGE: one invocation of the edge handler, a no-op while the handler is not installed
(41_edge_capture.md R170, R177). -/
def execEdge (lvl : Level) (now : Word) (s : State) : StepResult :=
  requireAgent .producer s
    (if s.active then complete .noValue (takeEdge lvl now s) else .next (s.reporting .noOp))

end Sys2Proof.Machine
end

