-- ==== Sys2Proof/Machine/FrameDecoder.lean ====
section
/-! DEFINITION. POLL and the steps of a decode attempt (42_frame_decoder.md R200, R214). -/

namespace Sys2Proof.Machine

/-- POLL accepted: the attempt begins, and the host's call returns at the consumer step that ends it
(42_frame_decoder.md R200, R214). -/
def execPoll (s : State) : StepResult :=
  requireAgent .host s (requireActive s (requirePhaseIdle s
    (.next ({ s with phase := .snap }.reporting .nothing))))

/-- `finish(x)`: the attempt ends and POLL returns (42_frame_decoder.md R200). -/
def finishPoll (r : Result) (s : State) : StepResult := complete r { s with phase := .idle }

/-- Step PH_SNAP (42_frame_decoder.md R214, R202). -/
def snapStep (s : State) : StepResult :=
  .next ({ s with et := snapTail s, q := 0, phase := .sync }.reporting .nothing)

/-- The offsets Q - 1 and Q, holding PREV and `v`, are the frame start marker (42_frame_decoder.md R205). -/
def syncMatch (s : State) (v : Word) : Bool :=
  decide (1 ≤ s.q) && intervalLevel s.cfg ((s.et + s.q - 1) % s.cfg.n) == .low
    && isSyncLow s.cfg s.prev && isSyncHigh s.cfg v

/-- Step PH_SYNC (42_frame_decoder.md R214, R204 to R208). -/
def syncStep (s : State) : StepResult :=
  match peekAt s.q s with
  | none => finishPoll (.pollAbsent .noSync) s
  | some v =>
    if syncMatch s v then
      .next ({ s with p := s.q, lvl := .high, budget := s.cfg.budgetInit, word := 0, nb := 0,
                      phase := .bits }.reporting .nothing)
    else .next ({ s with prev := v, q := s.q + 1 }.reporting .nothing)

/-- The inner loop of PH_BITS: while BUDGET ≥ BP and NB < 32, shift the tracked level's bit in and take one bit-period
off the budget (42_frame_decoder.md R210, R211, R214). The first argument bounds the loop; FRAME_BITS is enough. -/
def emitBits (c : Config.Params) (l : Level) : Nat → Nat × Word × Nat → Nat × Word × Nat
  | 0, x => x
  | fuel + 1, (budget, word, nb) =>
    if c.bp ≤ budget ∧ nb < Config.frameBits then
      emitBits c l fuel (budget - c.bp, shiftIn word (bitOf c l), nb + 1)
    else (budget, word, nb)

/-- Step PH_BITS: consume the next interval, then emit the bits it completes (42_frame_decoder.md R214, R209 to
R213). -/
def bitsStep (s : State) : StepResult :=
  let p := s.p + 1
  match peekAt p s with
  | none => finishPoll (.pollAbsent .short) { s with p := p }
  | some v =>
    let l := s.lvl.flip
    let (budget, word, nb) := emitBits s.cfg l Config.frameBits (s.budget + v.toNat, s.word, s.nb)
    .next ({ s with p := p, lvl := l, budget := budget, word := word, nb := nb,
                    phase := if nb = Config.frameBits then .commit else .bits }.reporting .nothing)

/-- Step PH_COMMIT: one COMMIT(ET, P), then the classification (42_frame_decoder.md R214 to R218). A count past SIZE is
COMMIT's own fault (log 16); an attempt no harness commit disturbs never has one (R216). -/
def commitStep (s : State) : StepResult :=
  match commitTail s.et s.p s with
  | .stale => finishPoll (.pollAbsent .race) s
  | .outOfRange => .fault (.commitRange s.et s.p s.size)
  | .advanced t => finishPoll (classify s.cfg s.word) { s with tail := t }

/-- One step of the consumer, selected by PHASE; with no POLL in progress the consumer does nothing
(42_frame_decoder.md R214). -/
def consumerStep (s : State) : StepResult :=
  match s.phase with
  | .idle => .next s
  | .snap => snapStep s
  | .sync => syncStep s
  | .bits => bitsStep s
  | .commit => commitStep s

end Sys2Proof.Machine
end

