-- ==== Sys2Proof/Machine/Interface.lean ====
section
/-! DEFINITION. INIT and TEARDOWN (44_interface.md R280, R284). -/

namespace Sys2Proof.Machine

/-- The state a successful INIT leaves: the reset of LDCORE (10_state.md R50, 70_reset_and_hazards.md R340). LAST_US and
IDLE are drawn, BUF is unspecified (no slot written), the decoder registers keep values no rule reads (log 4). -/
def startCapture (s : State) : State :=
  { s with
    line := LineConfig.capturing
    head := 0
    tail := 0
    lastUs := s.draw.lastUs
    idle := s.draw.idle
    buf := []
    phase := .idle
    active := true }

/-- INIT (44_interface.md R280; order of checks 60_exceptions.md R306). -/
def execInit (s : State) : StepResult :=
  requireAgent .host s
    (if s.active then refuse .alreadyActive s
     else if s.draw.initOk then complete .initOk (startCapture s)
     else complete .initFail s)

/-- The state TEARDOWN leaves: ACTIVE is 0 and the ring buffer and capture state take free values, the indices still
indices of slots (44_interface.md R284, R285; logs 7, 15). -/
def stopCapture (s : State) : State :=
  { s with
    line := s.line.released
    active := false
    buf := []
    head := s.draw.head % s.cfg.n
    tail := s.draw.tail % s.cfg.n
    lastUs := s.draw.lastUs
    idle := s.draw.idle }

/-- TEARDOWN (44_interface.md R284). -/
def execTeardown (s : State) : StepResult :=
  requireAgent .host s (requireActive s (requirePhaseIdle s (complete .noValue (stopCapture s))))

end Sys2Proof.Machine
end

