-- ==== Sys2Proof/Machine/RingBuffer.lean ====
section
/-! DEFINITION. PUSH, PEEK, SNAP and COMMIT as commands (40_ring_buffer.md R132, R135, R137, R138). -/

namespace Sys2Proof.Machine

/-- PUSH (40_ring_buffer.md R132). -/
def execPush (v : Word) (s : State) : StepResult :=
  requireAgent .producer s (requireActive s (complete .noValue (pushSample v s)))

/-- PEEK (40_ring_buffer.md R135). -/
def execPeek (i : Byte) (s : State) : StepResult :=
  requireAgent .consumer s (requireActive s (complete (.sample (peekAt i.toNat s)) s))

/-- SNAP (40_ring_buffer.md R137). The tail fits the 8-bit result because N ≤ 256 (00_scope.md R11). -/
def execSnap (s : State) : StepResult :=
  requireAgent .consumer s (requireActive s (complete (.tailIndex (BitVec.ofNat 8 (snapTail s))) s))

/-- COMMIT (40_ring_buffer.md R138, R139). -/
def execCommit (et c : Byte) (s : State) : StepResult :=
  requireAgent .consumer s (requireActive s
    (match commitTail et.toNat c.toNat s with
     | .stale => complete (.committed false) s
     | .outOfRange => .fault (.commitRange et.toNat c.toNat s.size)
     | .advanced t => complete (.committed true) { s with tail := t }))

end Sys2Proof.Machine
end

