-- ==== Sys2Proof/Machine/Validation.lean ====
section
/-! DEFINITION. VALID, PARITY, ISNUM and HEIGHT (43_frame_validation.md R250, R252, R254, R256): pure functions of the
frame that any agent may issue in any state (30_encoding.md R116, 60_exceptions.md R305). -/

namespace Sys2Proof.Machine

/-- VALID (43_frame_validation.md R250). -/
def execValid (w : Word) (s : State) : StepResult := complete (.truth (frameValid s.cfg w)) s

/-- PARITY (43_frame_validation.md R252). -/
def execParity (w : Word) (s : State) : StepResult := complete (.truth (parityFn w)) s

/-- ISNUM (43_frame_validation.md R254). -/
def execIsnum (w : Word) (s : State) : StepResult := complete (.truth (typeMatches s.cfg w)) s

/-- HEIGHT (43_frame_validation.md R256). -/
def execHeight (w : Word) (s : State) : StepResult := complete (.heightOf (heightField w)) s

end Sys2Proof.Machine
end

