-- ==== Sys2Proof/Machine/Dispatch.lean ====
section
/-! DEFINITION. One arm for each operation of LDCORE (30_encoding.md R112). -/

namespace Sys2Proof.Machine

def exec (i : Instr) (s : State) : Host.Outcome State Fault Refusal :=
  match i with
  | .init => Sys2Proof.Machine.execInit s
  | .teardown => Sys2Proof.Machine.execTeardown s
  | .poll => Sys2Proof.Machine.execPoll s
  | .edge lvl now => Sys2Proof.Machine.execEdge lvl now s
  | .push v => Sys2Proof.Machine.execPush v s
  | .peek off => Sys2Proof.Machine.execPeek off s
  | .snap => Sys2Proof.Machine.execSnap s
  | .commit et c => Sys2Proof.Machine.execCommit et c s
  | .valid w => Sys2Proof.Machine.execValid w s
  | .parity w => Sys2Proof.Machine.execParity w s
  | .isnum w => Sys2Proof.Machine.execIsnum w s
  | .height w => Sys2Proof.Machine.execHeight w s

end Sys2Proof.Machine
end

