-- ==== Sys2Proof/Machine/Fetch.lean ====
section
/-! DEFINITION. Taking the next event of a run (20_memory.md R72): a command word is decoded and executed for the agent
that issued it (30_encoding.md R110); the consumer's turn is one step of its attempt. -/

namespace Sys2Proof.Machine

/-- Execute one command word; an illegal one is refused (30_encoding.md R113, 60_exceptions.md R306 check 1). -/
def runWord (w : CmdWord) (s : State) : StepResult :=
  match decode w with
  | .ok i => exec i s
  | .error _ => refuse .illegalCommand s

/-- The state in which a command's meaning runs: the event is taken from the inbox, and its issuer and the environment's
inputs stand where the meaning reads them. -/
def State.taking (s : State) (rest : List Event) (a : Agent) (d : Draw) : State :=
  { s with inbox := rest, agent := a, draw := d }

/-- Take the next event. With none left the consumer goes on with its attempt, or the machine waits (log 6). -/
def takeEvent (s : State) : StepResult :=
  match s.inbox with
  | [] => consumerStep s
  | .tick :: rest => consumerStep { s with inbox := rest }
  | .issue a w d :: rest => runWord w (s.taking rest a d)

/-- The environment's inputs that come with a word placed by `State.withFetchWord`: the draws of every program of
95_test_vectors.md (INIT answers OK, LAST_US = 0, IDLE = 0). DESIGN CHOICE of the placing, not of INIT (log 8). -/
def placedDraw : Draw := ⟨true, 0, false, 0, 0⟩

/-- Place the low `nbits` bits of `w`, the bits above them 0, as the next event, issued by the agent that may issue it
(log 8). -/
def placeWord (nbits w : Nat) (s : State) : State :=
  let word : CmdWord := BitVec.ofNat 64 (w % 2 ^ nbits)
  { s with inbox := .issue (issuerOf word) word placedDraw :: s.inbox }

end Sys2Proof.Machine
end

