-- ==== Sys2Proof/Machine/Step.lean ====
section
/-! DEFINITION. One step of LDCORE: one atomic step of one agent (20_memory.md R65, R72). -/

namespace Sys2Proof.Machine

/-- One step of the machine. -/
def step : State → Host.Outcome State Fault Refusal := takeEvent

/-- The state whose next step runs the instruction with bits `w` (log 8). -/
def State.withFetchWord (s : State) (nbits w : Nat) : State := placeWord nbits w s

end Sys2Proof.Machine
end

