-- ==== Sys2Proof/Machine/Report.lean ====
section
/-! DEFINITION. The numeric codes of outcomes and the encodings of results (60_exceptions.md R303 to R305,
30_encoding.md R104 to R107). -/

namespace Sys2Proof.Machine

/-- 60_exceptions.md R303 -/
def AbsentReason.code : AbsentReason → Nat
  | .noSync => 0x20
  | .short => 0x21
  | .race => 0x22
  | .magic => 0x23
  | .parity => 0x24
  | .notNumber => 0x25
  | .zeroHeight => 0x26

/-- 60_exceptions.md R305 -/
def RefusalCode.code : RefusalCode → Nat
  | .illegalCommand => 0x10
  | .wrongContext => 0x11
  | .notActive => 0x12
  | .alreadyActive => 0x13
  | .pollInProgress => 0x14

/-- 60_exceptions.md R304 -/
def Fault.code : Fault → Nat
  | .commitRange _ _ _ => 0x01

/-- The bits of a returned value, zero-extended to the 33 bits of the widest result (30_encoding.md R104 to R107); none
for the operations that return no value. -/
def Result.encoded : Result → Option (BitVec 33)
  | .noValue => none
  | .initOk => some 0
  | .initFail => some 1
  | .pollHeight h => some (h.setWidth 33)
  | .pollAbsent _ => some 0
  | .sample none => some 0
  | .sample (some v) => some (1#1 ++ v)
  | .tailIndex t => some (t.setWidth 33)
  | .committed ok => some (if ok then 1 else 0)
  | .truth b => some (if b then 1 else 0)
  | .heightOf h => some (h.setWidth 33)

end Sys2Proof.Machine
end

