-- ==== Sys2Proof/Safety.lean ====
section
/-! DEFINITION. The terms the claims use: the agent table (30_encoding.md R116), the retained samples (10_state.md R34,
R49), the invariant every step keeps, what an operation leaves unchanged, and the decode attempt as a function of the
retained samples (42_frame_decoder.md R200, R223). -/

namespace Sys2Proof.Machine

/-- Which agent may issue which operation (30_encoding.md R116, 60_exceptions.md R317). -/
def mayIssue : Agent → Instr → Bool
  | a, .init => a == .host
  | a, .teardown => a == .host
  | a, .poll => a == .host
  | a, .edge _ _ => a == .producer
  | a, .push _ => a == .producer
  | a, .peek _ => a == .consumer
  | a, .snap => a == .consumer
  | a, .commit _ _ => a == .consumer
  | _, .valid _ => true
  | _, .parity _ => true
  | _, .isnum _ => true
  | _, .height _ => true

/-- The operations refused with R_NOT_ACTIVE while ACTIVE is 0 (60_exceptions.md R305). -/
def needsActive : Instr → Bool
  | .teardown => true
  | .poll => true
  | .push _ => true
  | .peek _ => true
  | .snap => true
  | .commit _ _ => true
  | .init => false
  | .edge _ _ => false
  | .valid _ => false
  | .parity _ => false
  | .isnum _ => false
  | .height _ => false

/-- The retained samples, oldest first: logical offsets 0 to SIZE - 1 (10_state.md R49). -/
def State.retained (s : State) : List Word := (List.range s.size).map fun i => s.slot (s.slotOf i)

/-- What holds of every reachable state. -/
structure State.Inv (s : State) : Prop where
  /-- the parameters make a model instance (00_scope.md R11, R12; 30_encoding.md R98) -/
  cfg_wf : s.cfg.wf = true
  /-- BUF is in its canonical form -/
  buf_wf : s.buf.wf = true
  /-- only slots 0 to N - 1 exist (20_memory.md R60) -/
  buf_slots : ∀ c ∈ s.buf, c.1 < s.cfg.n
  /-- HEAD is an index (10_state.md R32) -/
  head_lt : s.head < s.cfg.n
  /-- TAIL is an index (10_state.md R33) -/
  tail_lt : s.tail < s.cfg.n
  /-- every readable slot has been written since the last INIT (10_state.md R49) -/
  window_written : s.active = true → ∀ i, i < s.size → (s.buf.read (s.slotOf i)).isSome = true
  /-- the edge interrupt is enabled and handled exactly while ACTIVE is 1 (60_exceptions.md R308) -/
  interrupt_enabled : s.line.bothEdgeInterrupt = s.active ∧ s.line.handlerInstalled = s.active
  /-- a POLL is in progress only while ACTIVE is 1 (60_exceptions.md R305) -/
  poll_active : s.phase ≠ .idle → s.active = true
  /-- ET is an index once the snapshot is taken (10_state.md R30) -/
  et_lt : s.phase = .sync ∨ s.phase = .bits ∨ s.phase = .commit → s.et < s.cfg.n
  /-- Q stays in 0 to N - 1 during the search (10_state.md R30) -/
  q_lt : s.phase = .sync → s.q < s.cfg.n
  /-- P has been read, so it is below N - 1 (10_state.md R30, 42_frame_decoder.md R224) -/
  p_lt : s.phase = .bits ∨ s.phase = .commit → s.p + 1 < s.cfg.n
  /-- before each addition BUDGET is below BP and a bit is still wanted (42_frame_decoder.md R213) -/
  bits_budget : s.phase = .bits → s.budget < s.cfg.bp ∧ s.nb < Config.frameBits
  /-- with all 32 bits produced BUDGET is still below BP + 2^32 (42_frame_decoder.md R213) -/
  commit_budget : s.phase = .commit → s.budget < s.cfg.bp + 2 ^ 32 ∧ s.nb = Config.frameBits

/-- During an attempt the scan position is a retained offset (42_frame_decoder.md R216). A harness's COMMIT in the
middle of an attempt can break it. -/
def State.ScanRetained (s : State) : Prop :=
  s.phase = .bits ∨ s.phase = .commit → s.p < s.size

/-- BUF, HEAD and TAIL are unchanged: every slot reads as before. -/
def SameRing (s t : State) : Prop :=
  t.head = s.head ∧ t.tail = s.tail ∧ ∀ k, t.buf.read k = s.buf.read k

/-- LAST_US, IDLE, ACTIVE and the line's configuration are unchanged. -/
def SameCapture (s t : State) : Prop :=
  t.lastUs = s.lastUs ∧ t.idle = s.idle ∧ t.active = s.active ∧ t.line = s.line

/-- PHASE and the decoder's working registers are unchanged. -/
def SameDecoder (s t : State) : Prop :=
  t.phase = s.phase ∧ t.et = s.et ∧ t.q = s.q ∧ t.prev = s.prev ∧ t.p = s.p ∧ t.lvl = s.lvl
    ∧ t.budget = s.budget ∧ t.word = s.word ∧ t.nb = s.nb

/-- The parameters, the events to come and the command's issuer and inputs are unchanged. -/
def SameContext (s t : State) : Prop :=
  t.cfg = s.cfg ∧ t.inbox = s.inbox ∧ t.agent = s.agent ∧ t.draw = s.draw

/-- The state `s` with the PHASE and decoder registers of `d`. -/
def State.withDecoderOf (s d : State) : State :=
  { s with phase := d.phase, et := d.et, q := d.q, prev := d.prev, p := d.p, lvl := d.lvl,
           budget := d.budget, word := d.word, nb := d.nb }

/-- The next step is the consumer's: its turn is the next event, or no event is left. -/
def State.consumersTurn (s : State) : Prop := s.inbox = [] ∨ s.inbox.head? = some .tick

/-- How many of the first `k` steps are the consumer's turns. -/
def consumerTurns (inbox : List Event) (k : Nat) : Nat :=
  (inbox.take k).countP (fun e => e == .tick) + (k - inbox.length)

/-- PUSH commands of the producer, one for each sample in order. -/
def pushEvents (d : Draw) (vs : List Word) : List Event :=
  vs.map fun v => .issue .producer (encode (.push v)) d

/-- A run of `k` steps. -/
def runSteps (k : Nat) (s : State) : StepResult := Sys2Proof.core.run k s

/-- A state is safe for `k` steps when none of them ends the run: no fault (60_exceptions.md R324) and no step without a
meaning. -/
def State.SafeFor (s : State) (k : Nat) : Prop := ∃ t, runSteps k s = .next t

/-- What a decode attempt that no producer step interrupts comes to (42_frame_decoder.md R223): its result, and the
commit count if the commit was reached. -/
structure Decoded where
  result : Result
  consumed : Option Nat
  deriving DecidableEq, Repr

/-- The synchronization search of 42_frame_decoder.md R200 over the samples from offset `q` on, `prev` the one before:
the offset of the sync high pulse and the samples after it. -/
def findSync (c : Config.Params) (et : Nat) : Nat → Word → List Word → Option (Nat × List Word)
  | _, _, [] => none
  | q, prev, v :: rest =>
    if 1 ≤ q ∧ intervalLevel c ((et + q - 1) % c.n) = .low ∧ Config.syncLowBp * c.bp < prev.toNat
        ∧ v.toNat < Config.syncHighBp * c.bp then
      some (q, rest)
    else findSync c et (q + 1) v rest

/-- The bit reconstruction loop of 42_frame_decoder.md R200: the frame and the last offset consumed, or none when the
samples run out. The first argument bounds the loop's turns. -/
def rebuildFrame (c : Config.Params) :
    Nat → Level → Nat → Nat → Nat → Word → List Word → Option (Word × Nat)
  | 0, _, _, _, _, _, _ => none
  | fuel + 1, l, budget, nb, p, word, samples =>
    if nb = Config.frameBits then some (word, p)
    else if budget < c.bp then
      match samples with
      | [] => none
      | v :: rest => rebuildFrame c fuel l.flip (budget + v.toNat) nb (p + 1) word rest
    else rebuildFrame c fuel l (budget - c.bp) (nb + 1) p (shiftIn word (bitOf c l)) samples

/-- The frame rebuilt from the samples after the sync high pulse at offset `q`; the loop turns once for each bit, once
for each sample, and once to stop. -/
def frameAfterSync (c : Config.Params) (q : Nat) (rest : List Word) : Option (Word × Nat) :=
  rebuildFrame c (Config.frameBits + rest.length + 1) .high c.budgetInit 0 q 0 rest

/-- `Decode(ET, s_0, …)` of 42_frame_decoder.md R223. -/
def decodeSamples (c : Config.Params) (et : Nat) (samples : List Word) : Decoded :=
  match findSync c et 0 0 samples with
  | none => ⟨.pollAbsent .noSync, none⟩
  | some (q, rest) =>
    match frameAfterSync c q rest with
    | none => ⟨.pollAbsent .short, none⟩
    | some (w, p) => ⟨classify c w, some p⟩

/-- The lengths of the runs of equal elements of a list. -/
def runLengths : List Bool → List Nat
  | [] => []
  | b :: rest =>
    match rest, runLengths rest with
    | b' :: _, r :: rs => if b = b' then (r + 1) :: rs else 1 :: r :: rs
    | _, _ => [1]

/-- The bits of a frame, bit 31 first (30_encoding.md R93). -/
def frameBitList (w : Word) : List Bool := (List.range Config.frameBits).map fun n => w.getLsbD (31 - n)

/-- The samples of a frame sent with ideal timing: each run of r equal bits is one sample of r bit-periods
(42_frame_decoder.md R226). -/
def idealSamples (c : Config.Params) (w : Word) : List Word :=
  (runLengths (frameBitList w)).map fun r => BitVec.ofNat 32 (r * c.bp)

end Sys2Proof.Machine
end

