-- ==== Sys2Proof/Certificates/Slice0/Obligations.lean ====
section
/-! DEFINITION. The statements for the provers. -/

open Sys2Proof Sys2Proof.Machine

/-! ## Encoding -/

/-- 30_encoding.md R112, R114, R115: decoding the word of any operation gives the operation back, whatever its
operands. -/
def Obligations.DecodeOfEncodeIsIdentity : Prop :=
  ∀ i : Instr, decode (encode i) = .ok i

/-- 30_encoding.md R111, R115: a word that decodes is the word of what it decodes to, so no two words name one
operation. -/
def Obligations.EncodeOfDecodeIsIdentity : Prop :=
  ∀ (w : CmdWord) (i : Instr), decode w = .ok i → encode i = w

/-- 30_encoding.md R113: the decoder accepts exactly the words that fit a row of the opcode table. -/
def Obligations.DecoderAcceptsExactlyLegalWords : Prop :=
  ∀ w : CmdWord, legalWord w = true ↔ ∃ i, decode w = .ok i

/-- 30_encoding.md R113: which words are illegal, by fields: the opcode, a reserved bit, or a nonzero field the
operation does not use. -/
def Obligations.IllegalWordsByField : Prop :=
  ∀ w : CmdWord, (∃ e, decode w = .error e) ↔
    (let op := w.toNat % 16
     let l := w.toNat / 2 ^ 4 % 2
     let a := w.toNat / 2 ^ 8 % 256
     let b := w.toNat / 2 ^ 16 % 256
     let v := w.toNat / 2 ^ 32
     op = 0x0 ∨ op = 0xD ∨ op = 0xE ∨ op = 0xF
       ∨ w.toNat / 2 ^ 5 % 8 ≠ 0 ∨ w.toNat / 2 ^ 24 % 256 ≠ 0
       ∨ (op ≠ 0x4 ∧ l ≠ 0)
       ∨ (op ≠ 0x6 ∧ op ≠ 0x8 ∧ a ≠ 0)
       ∨ (op ≠ 0x8 ∧ b ≠ 0)
       ∨ ((op = 0x1 ∨ op = 0x2 ∨ op = 0x3 ∨ op = 0x6 ∨ op = 0x7 ∨ op = 0x8) ∧ v ≠ 0))

/-- 30_encoding.md R115 and 95_test_vectors.md ENC-1 to ENC-8: words of the spec and what they stand for. -/
def Obligations.SpecSampleWordsDecode : Prop :=
  decode 0x0000000000000007 = .ok .snap ∧ decode 0x0000000000000306 = .ok (.peek 3)
    ∧ decode 0x0000000000001308 = .ok (.commit 0 19)
    ∧ decode 0x000003E800000014 = .ok (.edge .high 1000)
    ∧ decode 0x0000AFC800000005 = .ok (.push 45000)
    ∧ decode 0x5A1004B40000000C = .ok (.height 0x5A1004B4)
    ∧ decode 0xFFFFFFFF00000004 = .ok (.edge .low 0xFFFFFFFF)
    ∧ decode 0x0000000000FFFF08 = .ok (.commit 255 255)

/-! ## Steps, reset and the invariant -/

/-- 30_encoding.md R110: when the next event is a command whose word decodes, the step is the meaning of the decoded
operation, run with the event taken and the event's issuer and inputs in place. -/
def Obligations.StepRunsDecodedCommand : Prop :=
  ∀ (s : State) (a : Agent) (w : CmdWord) (d : Draw) (rest : List Event) (i : Instr),
    s.inbox = .issue a w d :: rest → decode w = .ok i →
      step s = exec i { s with inbox := rest, agent := a, draw := d }

/-- A word placed for the next step is run by the next step, for an agent that may issue it: the model's own way of
loading a command (log 8), no rule of the spec. -/
def Obligations.PlacedWordRunsNext : Prop :=
  ∀ (s : State) (i : Instr), ∃ a, mayIssue a i = true ∧
    step (s.withFetchWord 64 (encode i).toNat) = exec i { s with agent := a, draw := placedDraw }

/-- 60_exceptions.md R305, R306: a word that is no legal command is refused with R_ILLEGAL_COMMAND whoever issues it
and in every state: nothing but the report changes (the event itself is taken) and the run goes on. -/
def Obligations.IllegalWordIsRefused : Prop :=
  ∀ (s : State) (a : Agent) (w : CmdWord) (d : Draw) (rest : List Event),
    s.inbox = .issue a w d :: rest → legalWord w = false →
      step s = .next { s with inbox := rest, agent := a, draw := d, report := .refused .illegalCommand }

/-- 70_reset_and_hazards.md R342 and 10_state.md R50 (decisions D11, D38): a run of every instance begins with ACTIVE =
0 and PHASE = PH_IDLE. That the run's first state is this one and not the state a successful INIT leaves is the model's
reading (log 1). -/
def Obligations.RunBeginsInactive : Prop :=
  ∀ c : Config.Params, (State.initial c).active = false ∧ (State.initial c).phase = .idle
    ∧ State.reset.active = false ∧ State.reset.phase = .idle

/-- The invariant of Safety.lean holds where a run begins, for every well-formed instance. The values of the elements
the spec leaves unspecified there are the model's choices (logs 1 to 7, 10, 12). -/
def Obligations.RunBeginsInInvariant : Prop :=
  State.reset.Inv ∧ ∀ c : Config.Params, c.wf = true → (State.initial c).Inv

/-- Every step keeps the invariant: SIZE < N with HEAD and TAIL indices (10_state.md R34), every readable slot written
since INIT (R49), BUF canonical, the interrupt enabled exactly while ACTIVE (60_exceptions.md R308), and the ranges of
the decoder's registers (10_state.md R30, 42_frame_decoder.md R213). That HEAD and TAIL are indices after TEARDOWN too,
where R285 leaves them unspecified, and the form of BUF are the model's choices (logs 7 and 15, log 5). -/
def Obligations.StepKeepsInvariant : Prop :=
  ∀ s t : State, s.Inv → step s = .next t → t.Inv

/-- 70_reset_and_hazards.md R343: no step changes a parameter of the model instance. -/
def Obligations.ParametersNeverChange : Prop :=
  ∀ s t : State, step s = .next t → t.cfg = s.cfg

/-- 60_exceptions.md R304, 40_ring_buffer.md R139: a step ends in a fault only as F_COMMIT_RANGE, only where a COMMIT
finds TAIL at the expected tail and a count above SIZE, recording the three numbers. The spec gives the fault to a COMMIT
issued directly (the second disjunct) and says that an attempt never raises it. The first disjunct, a fault of the
attempt's own PH_COMMIT step, is the model's choice (log 16): it allows that fault only in states no attempt reaches by
itself (AttemptNeverFaults). That no step is answered by a host refusal is the model's reading as well (log 9). -/
def Obligations.OnlyFaultIsCommitRange : Prop :=
  ∀ s : State, (∀ r, step s ≠ .refused r) ∧
    ∀ f, step s = .fault f →
      ∃ et c, f = .commitRange et c s.size ∧ s.tail = et ∧ s.size < c
        ∧ ((s.phase = .commit ∧ et = s.et ∧ c = s.p)
            ∨ ∃ w d, ∃ bet bc : Byte, s.inbox.head? = some (.issue .consumer w d)
                ∧ decode w = .ok (.commit bet bc) ∧ et = bet.toNat ∧ c = bc.toNat)

/-! ## Refusals -/

/-- 30_encoding.md R116, 60_exceptions.md R306 check 2: a command issued by an agent that may not issue it is refused
with R_WRONG_CONTEXT in every state, ACTIVE or not, and nothing else changes. -/
def Obligations.WrongAgentIsRefused : Prop :=
  ∀ (i : Instr) (s : State), mayIssue s.agent i = false →
    exec i s = .next { s with report := .refused .wrongContext }

/-- 60_exceptions.md R305, R306 checks 3 and 4: TEARDOWN, POLL, PUSH, PEEK, SNAP and COMMIT while ACTIVE = 0 are refused
with R_NOT_ACTIVE; INIT while ACTIVE = 1 with R_ALREADY_ACTIVE; POLL and TEARDOWN during a POLL with
R_POLL_IN_PROGRESS. -/
def Obligations.LifecycleMisuseIsRefused : Prop :=
  ∀ (i : Instr) (s : State), mayIssue s.agent i = true →
    (needsActive i = true → s.active = false → exec i s = .next { s with report := .refused .notActive })
    ∧ (i = .init → s.active = true → exec i s = .next { s with report := .refused .alreadyActive })
    ∧ (i = .poll ∨ i = .teardown → s.active = true → s.phase ≠ .idle →
        exec i s = .next { s with report := .refused .pollInProgress })

/-- 60_exceptions.md R305: a refused command changes no state and returns no result, whatever the command. -/
def Obligations.RefusedCommandChangesNothing : Prop :=
  ∀ (i : Instr) (s t : State) (c : RefusalCode), exec i s = .next t → t.report = .refused c →
    t = { s with report := .refused c }

/-! ## The interface: INIT, TEARDOWN, POLL -/

/-- 44_interface.md R280, R281 and 10_state.md R50: INIT by the host while capture is inactive, its outcome drawn OK,
answers OK and leaves an empty buffer with HEAD = TAIL = 0, LAST_US and IDLE as drawn (whatever was drawn), no slot
written, PHASE = PH_IDLE, ACTIVE = 1, and the line a pulled-up input with the handler on both edges. The decoder's
registers are unspecified there and not spoken of. -/
def Obligations.InitStartsCapture : Prop :=
  ∀ s : State, s.agent = .host → s.active = false → s.draw.initOk = true →
    ∃ t, exec .init s = .next t ∧ t.report = .result .initOk ∧ t.active = true ∧ t.phase = .idle
      ∧ t.head = 0 ∧ t.tail = 0 ∧ t.lastUs = s.draw.lastUs ∧ t.idle = s.draw.idle
      ∧ (∀ k, t.buf.read k = none) ∧ (0 < s.cfg.n → t.size = 0)
      ∧ t.line.pulledUpInput = true ∧ t.line.bothEdgeInterrupt = true ∧ t.line.handlerInstalled = true
      ∧ SameContext s t

/-- 44_interface.md R282, 60_exceptions.md R302: INIT whose outcome is drawn INIT_FAIL answers INIT_FAIL and changes no
state. -/
def Obligations.FailedInitChangesNothing : Prop :=
  ∀ s : State, s.agent = .host → s.active = false → s.draw.initOk = false →
    exec .init s = .next { s with report := .result .initFail }

/-- 44_interface.md R284, R285: TEARDOWN by the host with no POLL in progress clears ACTIVE, disables the interrupt and
uninstalls the handler; PHASE stays PH_IDLE, and BUF, HEAD, TAIL, LAST_US and IDLE are unspecified. What the statement
says of those five is the model's choice, no rule of the spec: LAST_US and IDLE are the drawn free values, whatever they
are, and so are HEAD and TAIL where the drawn ones lie below N (log 7); HEAD and TAIL stay below N, read from the index
type of 10_state.md R30 (log 15); no slot is listed as written (log 5). That the pull-up stays is the model's choice too
(log 12). -/
def Obligations.TeardownReleasesCapture : Prop :=
  ∀ s : State, s.agent = .host → s.active = true → s.phase = .idle →
    ∃ t, exec .teardown s = .next t ∧ t.report = .result .noValue ∧ t.active = false ∧ t.phase = .idle
      ∧ t.line.bothEdgeInterrupt = false ∧ t.line.handlerInstalled = false
      ∧ t.line.pulledUpInput = s.line.pulledUpInput
      ∧ (∀ k, t.buf.read k = none)
      ∧ t.lastUs = s.draw.lastUs ∧ t.idle = s.draw.idle
      ∧ (0 < s.cfg.n → t.head < s.cfg.n ∧ t.tail < s.cfg.n)
      ∧ (∀ h l, h < s.cfg.n → l < s.cfg.n → s.draw.head = h → s.draw.tail = l → t.head = h ∧ t.tail = l)
      ∧ SameContext s t

/-- 42_frame_decoder.md R200, R214: POLL by the host, capture active and no POLL in progress, starts an attempt: PHASE
becomes PH_SNAP, nothing is reported yet, and nothing else changes. -/
def Obligations.PollStartsAttempt : Prop :=
  ∀ s : State, s.agent = .host → s.active = true → s.phase = .idle →
    exec .poll s = .next { s with phase := .snap, report := .nothing }

/-! ## Edge capture -/

/-- 41_edge_capture.md R170 to R175 with 10_state.md R39: an edge whose level is the one keyed to HEAD's parity is
accepted: slot HEAD gets SENTINEL if IDLE was set before or the delta exceeds IDLE_THRESHOLD_US, else the delta now minus
LAST_US modulo 2^32; HEAD advances modulo N, TAIL as well if HEAD would meet it; IDLE is 0 and LAST_US is now. Every
other slot, ACTIVE, the line and the decoder's registers are unchanged. -/
def Obligations.AcceptedEdgeRecordsSample : Prop :=
  ∀ (s : State) (lvl : Level) (now : Word), s.agent = .producer → s.active = true →
    lvl = (if s.head % 2 = 0 then s.cfg.evenEdgeLevel else s.cfg.evenEdgeLevel.flip) →
    ∃ t, exec (.edge lvl now) s = .next t ∧ t.report = .result .noValue
      ∧ t.buf.read s.head = some
          (if s.idle = true ∨ s.cfg.idleThreshold < now - s.lastUs then s.cfg.sentinel else now - s.lastUs)
      ∧ (∀ k, k ≠ s.head → t.buf.read k = s.buf.read k)
      ∧ t.head = (s.head + 1) % s.cfg.n
      ∧ t.tail = (if (s.head + 1) % s.cfg.n = s.tail then (s.tail + 1) % s.cfg.n else s.tail)
      ∧ t.idle = false ∧ t.lastUs = now ∧ t.active = s.active ∧ t.line = s.line
      ∧ SameDecoder s t ∧ SameContext s t

/-- 41_edge_capture.md R172, R173, R176: an edge of the other level is ignored: only IDLE may change, and it becomes 1
exactly if it was 1 or the delta exceeds IDLE_THRESHOLD_US. -/
def Obligations.RejectedEdgeOnlyMarksIdle : Prop :=
  ∀ (s : State) (lvl : Level) (now : Word), s.agent = .producer → s.active = true →
    lvl ≠ (if s.head % 2 = 0 then s.cfg.evenEdgeLevel else s.cfg.evenEdgeLevel.flip) →
    ∃ t, exec (.edge lvl now) s = .next t ∧ t.report = .result .noValue
      ∧ (t.idle = true ↔ s.idle = true ∨ s.cfg.idleThreshold < now - s.lastUs)
      ∧ SameRing s t ∧ t.lastUs = s.lastUs ∧ t.active = s.active ∧ t.line = s.line
      ∧ SameDecoder s t ∧ SameContext s t

/-- 41_edge_capture.md R177: an edge while ACTIVE = 0 has no effect on any state and is no refusal. -/
def Obligations.EdgeWhileInactiveIsNoOp : Prop :=
  ∀ (s : State) (lvl : Level) (now : Word), s.agent = .producer → s.active = false →
    exec (.edge lvl now) s = .next { s with report := .noOp }

/-- 41_edge_capture.md R178: whatever an edge stores in a slot is SENTINEL or at most IDLE_THRESHOLD_US. -/
def Obligations.RecordedSampleIsBounded : Prop :=
  ∀ (s t : State) (lvl : Level) (now : Word) (k : Nat) (v : Word),
    exec (.edge lvl now) s = .next t → t.buf.read k = some v → s.buf.read k ≠ some v →
      v = s.cfg.sentinel ∨ v.toNat ≤ s.cfg.idleThreshold.toNat

/-- 41_edge_capture.md R181, 70_reset_and_hazards.md R353: in a well-formed instance, after an accepted edge the next
accepted edge has the opposite level, the wrap from N - 1 to 0 included. -/
def Obligations.AcceptedLevelsAlternate : Prop :=
  ∀ (s t : State) (lvl lvl' : Level) (now now' : Word), s.Inv → s.agent = .producer → s.active = true →
    exec (.edge lvl now) s = .next t → t.head ≠ s.head →
    ∀ u, exec (.edge lvl' now') t = .next u → u.head ≠ t.head → lvl' = lvl.flip

/-- 60_exceptions.md R313: EDGE neither reads nor writes the registers of the polling context: with any other PHASE and
decoder registers it does the same to everything else and leaves them as they are. -/
def Obligations.EdgeIgnoresDecoderRegisters : Prop :=
  ∀ (s d : State) (lvl : Level) (now : Word), ∃ t, exec (.edge lvl now) s = .next t ∧ SameDecoder s t
    ∧ exec (.edge lvl now) (s.withDecoderOf d) = .next (t.withDecoderOf d)

/-! ## The ring buffer -/

/-- 40_ring_buffer.md R132, R133: PUSH by the producer while ACTIVE stores the sample in slot HEAD, advances HEAD modulo
N, and drops the oldest sample (TAIL advances) exactly when HEAD would meet TAIL. Every other slot and all other state is
unchanged. -/
def Obligations.PushStoresAtHead : Prop :=
  ∀ (s : State) (v : Word), s.agent = .producer → s.active = true →
    ∃ t, exec (.push v) s = .next t ∧ t.report = .result .noValue
      ∧ t.buf.read s.head = some v ∧ (∀ k, k ≠ s.head → t.buf.read k = s.buf.read k)
      ∧ t.head = (s.head + 1) % s.cfg.n
      ∧ t.tail = (if (s.head + 1) % s.cfg.n = s.tail then (s.tail + 1) % s.cfg.n else s.tail)
      ∧ SameCapture s t ∧ SameDecoder s t ∧ SameContext s t

/-- 40_ring_buffer.md R141: in terms of the retained samples, PUSH adds the newest at the end and, when the buffer is
full, drops the oldest. -/
def Obligations.PushAppendsToRetained : Prop :=
  ∀ (s t : State) (v : Word), s.Inv → s.agent = .producer → s.active = true →
    exec (.push v) s = .next t →
      t.retained = if s.size = s.cfg.n - 1 then s.retained.tail ++ [v] else s.retained ++ [v]

/-- 40_ring_buffer.md R131: after any sequence of pushes the buffer retains the newest N - 1 of the samples it held and
those pushed, in push order: never more, and the oldest are the ones dropped. -/
def Obligations.PushSequenceKeepsNewest : Prop :=
  ∀ (s : State) (d : Draw) (vs : List Word), s.Inv → s.active = true → s.inbox = pushEvents d vs →
    ∃ t, runSteps vs.length s = .next t ∧ t.size ≤ s.cfg.n - 1
      ∧ t.retained = (s.retained ++ vs).drop ((s.retained ++ vs).length - (s.cfg.n - 1))

/-- 40_ring_buffer.md R135, R136, 20_memory.md R61: PEEK by the consumer while ACTIVE answers the content of slot
(TAIL + i) mod N when i is below SIZE and NONE otherwise, relative to the TAIL of that moment, and changes no state. -/
def Obligations.PeekReadsRetainedSample : Prop :=
  ∀ (s : State) (i : Byte), s.agent = .consumer → s.active = true →
    exec (.peek i) s = .next { s with report := .result (.sample (
      if i.toNat < (s.cfg.n + s.head - s.tail) % s.cfg.n then some (s.slot ((s.tail + i.toNat) % s.cfg.n))
      else none)) }

/-- 10_state.md R49: in the invariant's states PEEK never returns what BUF held at INIT: what it returns has been pushed
since, and is the retained sample of that offset. -/
def Obligations.PeekReturnsOnlyPushedSamples : Prop :=
  ∀ (s t : State) (i : Byte) (v : Word), s.Inv → exec (.peek i) s = .next t →
    t.report = .result (.sample (some v)) →
      s.buf.read ((s.tail + i.toNat) % s.cfg.n) = some v ∧ s.retained[i.toNat]? = some v

/-- 40_ring_buffer.md R137: SNAP by the consumer while ACTIVE answers TAIL and changes no state. In the invariant's
states the 8-bit result is TAIL itself. -/
def Obligations.SnapReadsTail : Prop :=
  ∀ s : State, s.agent = .consumer → s.active = true →
    exec .snap s = .next { s with report := .result (.tailIndex (BitVec.ofNat 8 s.tail)) }
      ∧ (s.Inv → (BitVec.ofNat 8 s.tail).toNat = s.tail)

/-- 40_ring_buffer.md R138: COMMIT et, c by the consumer while ACTIVE: with TAIL = et and c at most SIZE, TAIL becomes
(TAIL + c) mod N, the result is 1, and nothing else changes. -/
def Obligations.CommitAdvancesTail : Prop :=
  ∀ (s : State) (et c : Byte), s.agent = .consumer → s.active = true → s.tail = et.toNat → c.toNat ≤ s.size →
    exec (.commit et c) s =
      .next { s with tail := (s.tail + c.toNat) % s.cfg.n, report := .result (.committed true) }

/-- 40_ring_buffer.md R138, 60_exceptions.md R306 check 6: a COMMIT whose expected tail is not TAIL answers 0 and changes
nothing, whatever its count. -/
def Obligations.StaleCommitChangesNothing : Prop :=
  ∀ (s : State) (et c : Byte), s.agent = .consumer → s.active = true → s.tail ≠ et.toNat →
    exec (.commit et c) s = .next { s with report := .result (.committed false) }

/-- 40_ring_buffer.md R139, 60_exceptions.md R304 (decision D43): a COMMIT with TAIL = et and a count above SIZE faults
with F_COMMIT_RANGE, recording et, c and SIZE. -/
def Obligations.CommitPastHeadFaults : Prop :=
  ∀ (s : State) (et c : Byte), s.agent = .consumer → s.active = true → s.tail = et.toNat → s.size < c.toNat →
    exec (.commit et c) s = .fault (.commitRange et.toNat c.toNat s.size)

/-- 40_ring_buffer.md R141, 20_memory.md R73: a successful COMMIT by c retires the c oldest retained samples and keeps
the rest in order. -/
def Obligations.CommitRetiresOldest : Prop :=
  ∀ (s t : State) (et c : Byte), s.Inv → exec (.commit et c) s = .next t →
    t.report = .result (.committed true) → t.retained = s.retained.drop c.toNat

/-! ## Validation -/

/-- 43_frame_validation.md R250, R251: VALID by any agent in any state answers 1 exactly when frame bits [31:20] equal
MAGIC, and changes no state. -/
def Obligations.ValidChecksMagic : Prop :=
  ∀ (s : State) (w : Word),
    exec (.valid w) s = .next { s with report := .result (.truth (decide (w.toNat / 2 ^ 20 = s.cfg.magic.toNat))) }

/-- 43_frame_validation.md R252: PARITY by any agent in any state answers 1 for every frame and changes no state. -/
def Obligations.ParityAlwaysHolds : Prop :=
  ∀ (s : State) (w : Word), exec (.parity w) s = .next { s with report := .result (.truth true) }

/-- 43_frame_validation.md R254, R255: ISNUM by any agent in any state answers 1 exactly when (w >> TYPE_LSB) mod 2^12
equals TYPE_TAG, and changes no state. -/
def Obligations.IsnumChecksTypeTag : Prop :=
  ∀ (s : State) (w : Word),
    exec (.isnum w) s = .next { s with report := .result (
      .truth (decide (w.toNat / 2 ^ s.cfg.typeLsb % 2 ^ 12 = s.cfg.typeTag.toNat))) }

/-- 43_frame_validation.md R256, R257, R258: HEIGHT by any agent in any state answers the byte whose bit i is frame bit
8 - i (the payload [8:1] reversed), and changes no state. -/
def Obligations.HeightReversesPayload : Prop :=
  ∀ (s : State) (w : Word), ∃ h : Byte,
    exec (.height w) s = .next { s with report := .result (.heightOf h) }
      ∧ ∀ i, i < 8 → h.getLsbD i = w.getLsbD (8 - i)

/-- 43_frame_validation.md R258: rev8 takes bit i from bit 7 - i; it is each nibble reversed and the two swapped, rev4
taking bit i from bit 3 - i, with the sixteen values the rule lists; and it is its own inverse. -/
def Obligations.RevEightReversesBits : Prop :=
  (∀ b : Byte, (∀ i, i < 8 → (rev8 b).getLsbD i = b.getLsbD (7 - i))
      ∧ (rev8 b).toNat = (rev4 (b.extractLsb' 0 4)).toNat * 16 + (rev4 (b.extractLsb' 4 4)).toNat
      ∧ rev8 (rev8 b) = b)
    ∧ (∀ (n : BitVec 4) (i : Nat), i < 4 → (rev4 n).getLsbD i = n.getLsbD (3 - i))
    ∧ (List.range 16).map (fun n => (rev4 (BitVec.ofNat 4 n)).toNat)
        = [0x0, 0x8, 0x4, 0xC, 0x2, 0xA, 0x6, 0xE, 0x1, 0x9, 0x5, 0xD, 0x3, 0xB, 0x7, 0xF]

/-- 42_frame_decoder.md R218, R219, R260: a classification gives a height exactly for a frame whose magic and type
fields match and whose height is not 0, and then it is the frame's height; otherwise the reason is the first check that
fails, and A_PARITY never occurs. -/
def Obligations.ClassificationFollowsChecks : Prop :=
  ∀ (c : Config.Params) (w : Word),
    classify c w =
      if w.toNat / 2 ^ 20 ≠ c.magic.toNat then .pollAbsent .magic
      else if w.toNat / 2 ^ c.typeLsb % 2 ^ 12 ≠ c.typeTag.toNat then .pollAbsent .notNumber
      else if w.toNat / 2 % 2 ^ 8 = 0 then .pollAbsent .zeroHeight
      else .pollHeight (rev8 (w.extractLsb' 1 8))

/-- 30_encoding.md R104, 42_frame_decoder.md R219: no step of any agent reports a POLL height of 0, and an absent result
is encoded as 0. -/
def Obligations.PollNeverReportsZeroHeight : Prop :=
  (∀ (s t : State) (h : Byte), s.report ≠ .result (.pollHeight h) → step s = .next t →
      t.report = .result (.pollHeight h) → 1 ≤ h.toNat)
    ∧ ∀ r : AbsentReason, (Result.pollAbsent r).encoded = some 0

/-- 30_encoding.md R104 to R107: the bits of each result, zero-extended to 33: an absent POLL is 0 and a height is its
number; OK is 0 and INIT_FAIL 1; SOME(v) has bit 32 set and v below it, NONE is 0; SNAP's index and HEIGHT's byte are
their numbers; the one-bit results are 0 or 1; PUSH, EDGE and TEARDOWN return no value. -/
def Obligations.ResultEncodings : Prop :=
  (∀ r, (Result.pollAbsent r).encoded.map BitVec.toNat = some 0)
    ∧ (∀ h, (Result.pollHeight h).encoded.map BitVec.toNat = some h.toNat)
    ∧ Result.initOk.encoded.map BitVec.toNat = some 0 ∧ Result.initFail.encoded.map BitVec.toNat = some 1
    ∧ (∀ v, (Result.sample (some v)).encoded.map BitVec.toNat = some (2 ^ 32 + v.toNat))
    ∧ (Result.sample none).encoded.map BitVec.toNat = some 0
    ∧ (∀ i, (Result.tailIndex i).encoded.map BitVec.toNat = some i.toNat)
    ∧ (∀ b, (Result.committed b).encoded.map BitVec.toNat = some b.toNat)
    ∧ (∀ b, (Result.truth b).encoded.map BitVec.toNat = some b.toNat)
    ∧ (∀ h, (Result.heightOf h).encoded.map BitVec.toNat = some h.toNat)
    ∧ Result.noValue.encoded = none

/-! ## The decode attempt -/

/-- 42_frame_decoder.md R202, R214: the consumer's turn in PH_SNAP sets ET to TAIL, Q to 0 and PHASE to PH_SYNC, and
changes nothing else. -/
def Obligations.SnapStepTakesSnapshot : Prop :=
  ∀ s : State, s.consumersTurn → s.phase = .snap →
    step s = .next { s with et := s.tail, q := 0, phase := .sync, report := .nothing, inbox := s.inbox.tail }

/-- 42_frame_decoder.md R204 to R208, R214: the consumer's turn in PH_SYNC reads offset Q once. NONE ends the POLL with
A_NO_SYNC; a sample shorter than 2·BP at an offset whose predecessor is at LOW and longer than 40·BP starts the
reconstruction; any other sample is passed over. Nothing else changes. In the NONE case PHASE becomes PH_IDLE, where
10_state.md R43 leaves ET, Q, PREV, P, LVL, BUDGET, WORD and NB unspecified: that they keep their values there is the
model's choice (log 4). -/
def Obligations.SyncStepSearchesMarker : Prop :=
  ∀ s : State, s.consumersTurn → s.phase = .sync →
    step s = .next
      (if s.size ≤ s.q then
        { s with phase := .idle, report := .result (.pollAbsent .noSync), inbox := s.inbox.tail }
       else
        let v := s.slot ((s.tail + s.q) % s.cfg.n)
        if 1 ≤ s.q ∧ intervalLevel s.cfg ((s.et + s.q - 1) % s.cfg.n) = .low
            ∧ 40 * s.cfg.bp < s.prev.toNat ∧ v.toNat < 2 * s.cfg.bp then
          { s with p := s.q, lvl := .high, budget := s.cfg.bp / 2, word := 0, nb := 0, phase := .bits,
                   report := .nothing, inbox := s.inbox.tail }
        else { s with prev := v, q := s.q + 1, report := .nothing, inbox := s.inbox.tail })

/-- 42_frame_decoder.md R209 to R214: the consumer's turn in PH_BITS reads offset P + 1 once. NONE ends the POLL with
A_SHORT. A sample v flips the level and raises BUDGET to B = BUDGET + v exactly; then m = min (32 - NB) (B / BP) bits of
that level are shifted in at bit 0 and m·BP is taken off; with 32 bits PHASE becomes PH_COMMIT. -/
def Obligations.BitsStepResamples : Prop :=
  ∀ s : State, s.consumersTurn → s.phase = .bits → 1 ≤ s.cfg.bp → s.nb < 32 →
    (s.size ≤ s.p + 1 → ∃ t, step s = .next t ∧ t.phase = .idle ∧ t.report = .result (.pollAbsent .short)
        ∧ SameRing s t ∧ SameCapture s t ∧ t.cfg = s.cfg ∧ t.inbox = s.inbox.tail ∧ t.agent = s.agent
        ∧ t.draw = s.draw)
    ∧ (s.p + 1 < s.size →
        let total := s.budget + (s.slot ((s.tail + (s.p + 1)) % s.cfg.n)).toNat
        let m := min (32 - s.nb) (total / s.cfg.bp)
        let ones := if s.lvl.flip = s.cfg.oneLevel then 2 ^ m - 1 else 0
        step s = .next
          { s with p := s.p + 1, lvl := s.lvl.flip, budget := total - m * s.cfg.bp,
                   word := BitVec.ofNat 32 (s.word.toNat * 2 ^ m + ones), nb := s.nb + m,
                   phase := if s.nb + m = 32 then .commit else .bits,
                   report := .nothing, inbox := s.inbox.tail })

/-- 42_frame_decoder.md R214 to R218: the consumer's turn in PH_COMMIT makes one COMMIT(ET, P): a tail that is not ET ends
the POLL with A_RACE and TAIL unchanged; otherwise, with a count of at most SIZE, TAIL becomes (ET + P) mod N and the POLL
returns the classification of WORD. Both leave PHASE at PH_IDLE, where 10_state.md R43 leaves ET, Q, PREV, P, LVL, BUDGET,
WORD and NB unspecified: that they keep their values there is the model's choice (log 4). So is the last clause, that a
count above SIZE with TAIL at ET faults as COMMIT does (log 16): R216 says that no attempt has such a count. -/
def Obligations.CommitStepEndsAttempt : Prop :=
  ∀ s : State, s.consumersTurn → s.phase = .commit →
    (s.tail ≠ s.et → step s = .next
        { s with phase := .idle, report := .result (.pollAbsent .race), inbox := s.inbox.tail })
    ∧ (s.tail = s.et → s.p ≤ s.size → step s = .next
        { s with phase := .idle, tail := (s.et + s.p) % s.cfg.n, report := .result (classify s.cfg s.word),
                 inbox := s.inbox.tail })
    ∧ (s.tail = s.et → s.size < s.p → step s = .fault (.commitRange s.et s.p s.size))

/-- 10_state.md R51, 42_frame_decoder.md R222: the consumer's turn never changes HEAD, BUF, LAST_US, IDLE or ACTIVE, and
changes TAIL only in PH_COMMIT with TAIL = ET, ending the POLL with a height or a frame rejection. -/
def Obligations.ConsumerWritesOnlyTailByCommit : Prop :=
  ∀ s t : State, s.consumersTurn → step s = .next t →
    t.head = s.head ∧ (∀ k, t.buf.read k = s.buf.read k) ∧ SameCapture s t
      ∧ (t.tail ≠ s.tail → s.phase = .commit ∧ s.tail = s.et ∧ t.phase = .idle
          ∧ t.report = .result (classify s.cfg s.word))

/-- 42_frame_decoder.md R216: an attempt never raises F_COMMIT_RANGE: from a state of the invariant in which the scan
position is retained, any step but a COMMIT issued as a command answers a next state in which it still is. -/
def Obligations.AttemptNeverFaults : Prop :=
  ∀ s : State, s.Inv → s.ScanRetained →
    (∀ a w d et c, s.inbox.head? = some (.issue a w d) → decode w ≠ .ok (.commit et c)) →
    ∃ t, step s = .next t ∧ t.ScanRetained

/-- 42_frame_decoder.md R224: every attempt ends within N + 1 consumer steps in every interleaving: a run that gives the
consumer N + 1 turns after the POLL is accepted has passed through PH_IDLE. -/
def Obligations.AttemptEndsWithinBound : Prop :=
  ∀ (s t : State) (k : Nat), s.Inv → s.phase = .snap → runSteps k s = .next t →
    s.cfg.n + 1 ≤ consumerTurns s.inbox k →
      ∃ j u, j ≤ k ∧ runSteps j s = .next u ∧ u.phase = .idle

/-- 42_frame_decoder.md R223: an attempt that nothing interrupts ends within N + 1 steps with the result of `Decode` on
the snapshot tail and the retained samples; TAIL advances by the commit count if the commit was reached and is unchanged
otherwise; the rest of the ring buffer and the capture state are unchanged. -/
def Obligations.UninterruptedAttemptComputesDecode : Prop :=
  ∀ s : State, s.Inv → s.phase = .snap → s.inbox = [] →
    ∃ k t, k ≤ s.cfg.n + 1 ∧ runSteps k s = .next t ∧ t.phase = .idle
      ∧ t.report = .result (decodeSamples s.cfg s.tail s.retained).result
      ∧ t.tail = (match (decodeSamples s.cfg s.tail s.retained).consumed with
          | some p => (s.tail + p) % s.cfg.n
          | none => s.tail)
      ∧ t.head = s.head ∧ (∀ j, t.buf.read j = s.buf.read j) ∧ SameCapture s t ∧ SameContext s t

/-- 42_frame_decoder.md R225: frame bit 31 - n is the bit of the level of the first interval j after the sync high pulse
(at offset q) whose end lies at or after the sample instant (n + 1)·BP - floor(BP / 2); for n = 31 that interval is the
last consumed. -/
def Obligations.BitsAreSampledAtInstants : Prop :=
  ∀ (c : Config.Params) (et q : Nat) (samples rest : List Word) (w : Word) (p : Nat), c.wf = true →
    findSync c et 0 0 samples = some (q, rest) → frameAfterSync c q rest = some (w, p) →
    ∀ n, n < 32 → ∃ j, q < j ∧ j ≤ p
      ∧ (n + 1) * c.bp ≤ c.bp / 2 + ((rest.take (j - q)).map BitVec.toNat).sum
      ∧ (∀ i, q < i → i < j → c.bp / 2 + ((rest.take (i - q)).map BitVec.toNat).sum < (n + 1) * c.bp)
      ∧ w.getLsbD (31 - n) = bitOf c (intervalLevel c ((et + j) % c.n))
      ∧ (n = 31 → j = p)

/-- 42_frame_decoder.md R226: a frame whose bit 31 is Bit(LOW), sent with ideal timing after a sync marker that no
earlier pair of samples matches, is rebuilt exactly, for every BP: the reconstruction gives that very word, all 32 bits,
and the attempt classifies it and consumes the samples up to its last run. -/
def Obligations.IdealTimingRoundTrip : Prop :=
  ∀ (c : Config.Params) (et : Nat) (before : List Word) (low high w : Word), c.wf = true →
    findSync c et 0 0 (before ++ [low]) = none →
    intervalLevel c ((et + before.length) % c.n) = .low →
    40 * c.bp < low.toNat → high.toNat < 2 * c.bp → w.getLsbD 31 = bitOf c .low →
    frameAfterSync c (before.length + 1) (idealSamples c w)
        = some (w, before.length + 1 + (idealSamples c w).length)
    ∧ decodeSamples c et (before ++ low :: high :: idealSamples c w)
        = ⟨classify c w, some (before.length + 1 + (idealSamples c w).length)⟩

/-! ## Races -/

/-- 40_ring_buffer.md R140, 42_frame_decoder.md R217: with the buffer full and 32 bits produced, any number of evicting
pushes that is not a multiple of N before the commit makes the attempt end with A_RACE, TAIL left where the evictions put
it. -/
def Obligations.EvictionBeforeCommitLosesRace : Prop :=
  ∀ (s : State) (d : Draw) (vs : List Word), s.Inv → s.phase = .commit → s.tail = s.et →
    s.size = s.cfg.n - 1 → vs.length % s.cfg.n ≠ 0 → s.inbox = pushEvents d vs →
    ∃ t, runSteps (vs.length + 1) s = .next t ∧ t.phase = .idle ∧ t.report = .result (.pollAbsent .race)
      ∧ t.tail = (s.et + vs.length) % s.cfg.n

/-- 20_memory.md R77, 70_reset_and_hazards.md R346 (the ABA case): with the buffer full, exactly N evicting pushes before
the commit bring TAIL back to ET: the commit succeeds and the word read before is classified, although every slot now
holds another push's sample. -/
def Obligations.FullWrapOfEvictionsIsNotDetected : Prop :=
  ∀ (s : State) (d : Draw) (vs : List Word), s.Inv → s.phase = .commit → s.tail = s.et →
    s.size = s.cfg.n - 1 → vs.length = s.cfg.n → s.inbox = pushEvents d vs →
    ∃ t, runSteps (vs.length + 1) s = .next t ∧ t.phase = .idle
      ∧ t.report = .result (classify s.cfg s.word) ∧ t.tail = (s.et + s.p) % s.cfg.n
      ∧ ∀ i, i < s.cfg.n → t.buf.read ((s.head + i) % s.cfg.n) = vs[i]?
end

