-- ==== Sys2Proof/Laws/Memory.lean ====
section
/-! SUPPORT. Reading and writing the slots of BUF: a write stores its word in its slot, leaves every other slot alone
and keeps the canonical form. -/

namespace Sys2Proof.Machine

@[simp] theorem Memory.read_nil (k : Nat) : Memory.read [] k = none := rfl

/-- A slot reads as the word just written to it. -/
@[simp] theorem Memory.read_write_self (m : Memory) (k : Nat) (v : Word) : (m.write k v).read k = some v := by
  induction m with
  | nil => simp [Memory.write, Memory.read]
  | cons c rest ih =>
    obtain ⟨k', v'⟩ := c
    simp only [Memory.write]
    split
    · simp [Memory.read]
    · split
      · simp [Memory.read]
      · simp [Memory.read, *]

/-- A write leaves every other slot alone. -/
theorem Memory.read_write_other (m : Memory) {k j : Nat} (v : Word) (h : j ≠ k) :
    (m.write k v).read j = m.read j := by
  induction m with
  | nil => simp [Memory.write, Memory.read, h]
  | cons c rest ih =>
    obtain ⟨k', v'⟩ := c
    simp only [Memory.write]
    split
    · simp [Memory.read, h]
    · split
      · subst k'; simp [Memory.read, h]
      · simp [Memory.read, ih]

/-- The slots listed after a write: the written one and those listed before. -/
theorem Memory.mem_write {m : Memory} {k : Nat} {v : Word} {c : Nat × Word} (h : c ∈ m.write k v) :
    c = (k, v) ∨ c ∈ m := by
  induction m with
  | nil => simpa [Memory.write] using h
  | cons d rest ih =>
    obtain ⟨k', v'⟩ := d
    simp only [Memory.write] at h
    split at h
    · simpa using h
    · split at h
      · rcases List.mem_cons.1 h with h | h
        · exact .inl h
        · exact .inr (List.mem_cons_of_mem _ h)
      · rcases List.mem_cons.1 h with h | h
        · exact .inr (by simp [h])
        · exact (ih h).imp_right (List.mem_cons_of_mem _)

theorem Memory.wf_nil : Memory.wf [] = true := rfl

/-- A write keeps the slots strictly rising. -/
theorem Memory.write_wf {m : Memory} (k : Nat) (v : Word) (h : m.wf = true) : (m.write k v).wf = true := by
  simp only [Memory.wf, decide_eq_true_eq] at h ⊢
  induction m with
  | nil => simp [Memory.write]
  | cons c rest ih =>
    obtain ⟨k', v'⟩ := c
    rw [List.pairwise_cons] at h
    simp only [Memory.write]
    split
    · rename_i hlt
      refine List.pairwise_cons.2 ⟨fun d hd => ?_, List.pairwise_cons.2 h⟩
      rcases List.mem_cons.1 hd with rfl | hd
      · exact hlt
      · exact Nat.lt_trans hlt (h.1 d hd)
    · split
      · subst k'; exact List.pairwise_cons.2 h
      · rename_i hge hne
        refine List.pairwise_cons.2 ⟨fun d hd => ?_, ih h.2⟩
        rcases Memory.mem_write hd with rfl | hd
        · simp only; omega
        · exact h.1 d hd

/-- The memory a run begins with is in canonical form. -/
theorem State.reset_buf_wf : State.reset.buf.wf = true := rfl

end Sys2Proof.Machine
end

