-- ==== Sys2Proof/Laws/State.lean ====
section
/-! SUPPORT. The fields of a state after each named update: one lemma for each field, true by rfl, so that no proof
unfolds a record update. -/

namespace Sys2Proof.Machine

section Reporting

@[simp] theorem State.reporting_cfg (s : State) (r : Report) : (s.reporting r).cfg = s.cfg := rfl
@[simp] theorem State.reporting_buf (s : State) (r : Report) : (s.reporting r).buf = s.buf := rfl
@[simp] theorem State.reporting_head (s : State) (r : Report) : (s.reporting r).head = s.head := rfl
@[simp] theorem State.reporting_tail (s : State) (r : Report) : (s.reporting r).tail = s.tail := rfl
@[simp] theorem State.reporting_lastUs (s : State) (r : Report) : (s.reporting r).lastUs = s.lastUs := rfl
@[simp] theorem State.reporting_idle (s : State) (r : Report) : (s.reporting r).idle = s.idle := rfl
@[simp] theorem State.reporting_active (s : State) (r : Report) : (s.reporting r).active = s.active := rfl
@[simp] theorem State.reporting_phase (s : State) (r : Report) : (s.reporting r).phase = s.phase := rfl
@[simp] theorem State.reporting_et (s : State) (r : Report) : (s.reporting r).et = s.et := rfl
@[simp] theorem State.reporting_q (s : State) (r : Report) : (s.reporting r).q = s.q := rfl
@[simp] theorem State.reporting_prev (s : State) (r : Report) : (s.reporting r).prev = s.prev := rfl
@[simp] theorem State.reporting_p (s : State) (r : Report) : (s.reporting r).p = s.p := rfl
@[simp] theorem State.reporting_lvl (s : State) (r : Report) : (s.reporting r).lvl = s.lvl := rfl
@[simp] theorem State.reporting_budget (s : State) (r : Report) : (s.reporting r).budget = s.budget := rfl
@[simp] theorem State.reporting_word (s : State) (r : Report) : (s.reporting r).word = s.word := rfl
@[simp] theorem State.reporting_nb (s : State) (r : Report) : (s.reporting r).nb = s.nb := rfl
@[simp] theorem State.reporting_line (s : State) (r : Report) : (s.reporting r).line = s.line := rfl
@[simp] theorem State.reporting_inbox (s : State) (r : Report) : (s.reporting r).inbox = s.inbox := rfl
@[simp] theorem State.reporting_agent (s : State) (r : Report) : (s.reporting r).agent = s.agent := rfl
@[simp] theorem State.reporting_draw (s : State) (r : Report) : (s.reporting r).draw = s.draw := rfl
@[simp] theorem State.reporting_report (s : State) (r : Report) : (s.reporting r).report = r := rfl

end Reporting

section Taking

@[simp] theorem State.taking_cfg (s : State) (rest : List Event) (a : Agent) (d : Draw) : (s.taking rest a d).cfg = s.cfg := rfl
@[simp] theorem State.taking_buf (s : State) (rest : List Event) (a : Agent) (d : Draw) : (s.taking rest a d).buf = s.buf := rfl
@[simp] theorem State.taking_head (s : State) (rest : List Event) (a : Agent) (d : Draw) : (s.taking rest a d).head = s.head := rfl
@[simp] theorem State.taking_tail (s : State) (rest : List Event) (a : Agent) (d : Draw) : (s.taking rest a d).tail = s.tail := rfl
@[simp] theorem State.taking_lastUs (s : State) (rest : List Event) (a : Agent) (d : Draw) : (s.taking rest a d).lastUs = s.lastUs := rfl
@[simp] theorem State.taking_idle (s : State) (rest : List Event) (a : Agent) (d : Draw) : (s.taking rest a d).idle = s.idle := rfl
@[simp] theorem State.taking_active (s : State) (rest : List Event) (a : Agent) (d : Draw) : (s.taking rest a d).active = s.active := rfl
@[simp] theorem State.taking_phase (s : State) (rest : List Event) (a : Agent) (d : Draw) : (s.taking rest a d).phase = s.phase := rfl
@[simp] theorem State.taking_et (s : State) (rest : List Event) (a : Agent) (d : Draw) : (s.taking rest a d).et = s.et := rfl
@[simp] theorem State.taking_q (s : State) (rest : List Event) (a : Agent) (d : Draw) : (s.taking rest a d).q = s.q := rfl
@[simp] theorem State.taking_prev (s : State) (rest : List Event) (a : Agent) (d : Draw) : (s.taking rest a d).prev = s.prev := rfl
@[simp] theorem State.taking_p (s : State) (rest : List Event) (a : Agent) (d : Draw) : (s.taking rest a d).p = s.p := rfl
@[simp] theorem State.taking_lvl (s : State) (rest : List Event) (a : Agent) (d : Draw) : (s.taking rest a d).lvl = s.lvl := rfl
@[simp] theorem State.taking_budget (s : State) (rest : List Event) (a : Agent) (d : Draw) : (s.taking rest a d).budget = s.budget := rfl
@[simp] theorem State.taking_word (s : State) (rest : List Event) (a : Agent) (d : Draw) : (s.taking rest a d).word = s.word := rfl
@[simp] theorem State.taking_nb (s : State) (rest : List Event) (a : Agent) (d : Draw) : (s.taking rest a d).nb = s.nb := rfl
@[simp] theorem State.taking_line (s : State) (rest : List Event) (a : Agent) (d : Draw) : (s.taking rest a d).line = s.line := rfl
@[simp] theorem State.taking_inbox (s : State) (rest : List Event) (a : Agent) (d : Draw) : (s.taking rest a d).inbox = rest := rfl
@[simp] theorem State.taking_agent (s : State) (rest : List Event) (a : Agent) (d : Draw) : (s.taking rest a d).agent = a := rfl
@[simp] theorem State.taking_draw (s : State) (rest : List Event) (a : Agent) (d : Draw) : (s.taking rest a d).draw = d := rfl
@[simp] theorem State.taking_report (s : State) (rest : List Event) (a : Agent) (d : Draw) : (s.taking rest a d).report = s.report := rfl

end Taking

section PushSample

@[simp] theorem pushSample_cfg (v : Word) (s : State) : (pushSample v s).cfg = s.cfg := rfl
@[simp] theorem pushSample_buf (v : Word) (s : State) : (pushSample v s).buf = s.buf.write s.head v := rfl
@[simp] theorem pushSample_head (v : Word) (s : State) : (pushSample v s).head = (s.head + 1) % s.cfg.n := rfl
@[simp] theorem pushSample_tail (v : Word) (s : State) : (pushSample v s).tail = if (s.head + 1) % s.cfg.n = s.tail then (s.tail + 1) % s.cfg.n else s.tail := rfl
@[simp] theorem pushSample_lastUs (v : Word) (s : State) : (pushSample v s).lastUs = s.lastUs := rfl
@[simp] theorem pushSample_idle (v : Word) (s : State) : (pushSample v s).idle = s.idle := rfl
@[simp] theorem pushSample_active (v : Word) (s : State) : (pushSample v s).active = s.active := rfl
@[simp] theorem pushSample_phase (v : Word) (s : State) : (pushSample v s).phase = s.phase := rfl
@[simp] theorem pushSample_et (v : Word) (s : State) : (pushSample v s).et = s.et := rfl
@[simp] theorem pushSample_q (v : Word) (s : State) : (pushSample v s).q = s.q := rfl
@[simp] theorem pushSample_prev (v : Word) (s : State) : (pushSample v s).prev = s.prev := rfl
@[simp] theorem pushSample_p (v : Word) (s : State) : (pushSample v s).p = s.p := rfl
@[simp] theorem pushSample_lvl (v : Word) (s : State) : (pushSample v s).lvl = s.lvl := rfl
@[simp] theorem pushSample_budget (v : Word) (s : State) : (pushSample v s).budget = s.budget := rfl
@[simp] theorem pushSample_word (v : Word) (s : State) : (pushSample v s).word = s.word := rfl
@[simp] theorem pushSample_nb (v : Word) (s : State) : (pushSample v s).nb = s.nb := rfl
@[simp] theorem pushSample_line (v : Word) (s : State) : (pushSample v s).line = s.line := rfl
@[simp] theorem pushSample_inbox (v : Word) (s : State) : (pushSample v s).inbox = s.inbox := rfl
@[simp] theorem pushSample_agent (v : Word) (s : State) : (pushSample v s).agent = s.agent := rfl
@[simp] theorem pushSample_draw (v : Word) (s : State) : (pushSample v s).draw = s.draw := rfl
@[simp] theorem pushSample_report (v : Word) (s : State) : (pushSample v s).report = s.report := rfl

end PushSample

section StartCapture

@[simp] theorem startCapture_cfg (s : State) : (startCapture s).cfg = s.cfg := rfl
@[simp] theorem startCapture_buf (s : State) : (startCapture s).buf = [] := rfl
@[simp] theorem startCapture_head (s : State) : (startCapture s).head = 0 := rfl
@[simp] theorem startCapture_tail (s : State) : (startCapture s).tail = 0 := rfl
@[simp] theorem startCapture_lastUs (s : State) : (startCapture s).lastUs = s.draw.lastUs := rfl
@[simp] theorem startCapture_idle (s : State) : (startCapture s).idle = s.draw.idle := rfl
@[simp] theorem startCapture_active (s : State) : (startCapture s).active = true := rfl
@[simp] theorem startCapture_phase (s : State) : (startCapture s).phase = .idle := rfl
@[simp] theorem startCapture_et (s : State) : (startCapture s).et = s.et := rfl
@[simp] theorem startCapture_q (s : State) : (startCapture s).q = s.q := rfl
@[simp] theorem startCapture_prev (s : State) : (startCapture s).prev = s.prev := rfl
@[simp] theorem startCapture_p (s : State) : (startCapture s).p = s.p := rfl
@[simp] theorem startCapture_lvl (s : State) : (startCapture s).lvl = s.lvl := rfl
@[simp] theorem startCapture_budget (s : State) : (startCapture s).budget = s.budget := rfl
@[simp] theorem startCapture_word (s : State) : (startCapture s).word = s.word := rfl
@[simp] theorem startCapture_nb (s : State) : (startCapture s).nb = s.nb := rfl
@[simp] theorem startCapture_line (s : State) : (startCapture s).line = LineConfig.capturing := rfl
@[simp] theorem startCapture_inbox (s : State) : (startCapture s).inbox = s.inbox := rfl
@[simp] theorem startCapture_agent (s : State) : (startCapture s).agent = s.agent := rfl
@[simp] theorem startCapture_draw (s : State) : (startCapture s).draw = s.draw := rfl
@[simp] theorem startCapture_report (s : State) : (startCapture s).report = s.report := rfl

end StartCapture

section StopCapture

@[simp] theorem stopCapture_cfg (s : State) : (stopCapture s).cfg = s.cfg := rfl
@[simp] theorem stopCapture_buf (s : State) : (stopCapture s).buf = [] := rfl
@[simp] theorem stopCapture_head (s : State) : (stopCapture s).head = s.draw.head % s.cfg.n := rfl
@[simp] theorem stopCapture_tail (s : State) : (stopCapture s).tail = s.draw.tail % s.cfg.n := rfl
@[simp] theorem stopCapture_lastUs (s : State) : (stopCapture s).lastUs = s.draw.lastUs := rfl
@[simp] theorem stopCapture_idle (s : State) : (stopCapture s).idle = s.draw.idle := rfl
@[simp] theorem stopCapture_active (s : State) : (stopCapture s).active = false := rfl
@[simp] theorem stopCapture_phase (s : State) : (stopCapture s).phase = s.phase := rfl
@[simp] theorem stopCapture_et (s : State) : (stopCapture s).et = s.et := rfl
@[simp] theorem stopCapture_q (s : State) : (stopCapture s).q = s.q := rfl
@[simp] theorem stopCapture_prev (s : State) : (stopCapture s).prev = s.prev := rfl
@[simp] theorem stopCapture_p (s : State) : (stopCapture s).p = s.p := rfl
@[simp] theorem stopCapture_lvl (s : State) : (stopCapture s).lvl = s.lvl := rfl
@[simp] theorem stopCapture_budget (s : State) : (stopCapture s).budget = s.budget := rfl
@[simp] theorem stopCapture_word (s : State) : (stopCapture s).word = s.word := rfl
@[simp] theorem stopCapture_nb (s : State) : (stopCapture s).nb = s.nb := rfl
@[simp] theorem stopCapture_line (s : State) : (stopCapture s).line = s.line.released := rfl
@[simp] theorem stopCapture_inbox (s : State) : (stopCapture s).inbox = s.inbox := rfl
@[simp] theorem stopCapture_agent (s : State) : (stopCapture s).agent = s.agent := rfl
@[simp] theorem stopCapture_draw (s : State) : (stopCapture s).draw = s.draw := rfl
@[simp] theorem stopCapture_report (s : State) : (stopCapture s).report = s.report := rfl

end StopCapture

end Sys2Proof.Machine
end

