-- ==== Sys2Proof/Laws/Ops.lean ====
section
/-! SUPPORT. What each shared operation can do, said once. -/

namespace Sys2Proof.Machine

/-- A guarded meaning answers as its body does, or refuses for the agent. -/
theorem requireAgent_cases (a : Agent) (s : State) (k : StepResult) :
    (s.agent = a ∧ requireAgent a s k = k) ∨ (s.agent ≠ a ∧ requireAgent a s k = refuse .wrongContext s) := by
  unfold requireAgent; split <;> simp_all

theorem requireActive_cases (s : State) (k : StepResult) :
    (s.active = true ∧ requireActive s k = k) ∨ (s.active = false ∧ requireActive s k = refuse .notActive s) := by
  unfold requireActive; split <;> simp_all

theorem requirePhaseIdle_cases (s : State) (k : StepResult) :
    (s.phase = .idle ∧ requirePhaseIdle s k = k) ∨
      (s.phase ≠ .idle ∧ requirePhaseIdle s k = refuse .pollInProgress s) := by
  unfold requirePhaseIdle; split <;> simp_all

@[simp] theorem requireAgent_self (s : State) (k : StepResult) : requireAgent s.agent s k = k := by
  simp [requireAgent]

theorem requireAgent_of_eq {a : Agent} {s : State} (h : s.agent = a) (k : StepResult) : requireAgent a s k = k := by
  simp [requireAgent, h]

theorem requireActive_of_eq {s : State} (h : s.active = true) (k : StepResult) : requireActive s k = k := by
  simp [requireActive, h]

theorem requirePhaseIdle_of_eq {s : State} (h : s.phase = .idle) (k : StepResult) : requirePhaseIdle s k = k := by
  simp [requirePhaseIdle, h]

/-- A completed operation answers a next state: the same state with its result reported. -/
theorem complete_eq (r : Result) (s : State) : complete r s = .next (s.reporting (.result r)) := rfl

/-- A refusal answers a next state: the same state with the code reported. -/
theorem refuse_eq (c : RefusalCode) (s : State) : refuse c s = .next (s.reporting (.refused c)) := rfl

/-- SIZE is below N (10_state.md R34). -/
theorem State.size_lt {s : State} (h : 0 < s.cfg.n) : s.size < s.cfg.n := Nat.mod_lt _ h

/-- The slot of an offset exists (20_memory.md R67). -/
theorem State.slotOf_lt {s : State} (h : 0 < s.cfg.n) (i : Nat) : s.slotOf i < s.cfg.n := Nat.mod_lt _ h

/-- PEEK answers NONE from SIZE on and the slot of the offset below it. -/
theorem peekAt_cases (i : Nat) (s : State) :
    (s.size ≤ i ∧ peekAt i s = none) ∨ (i < s.size ∧ peekAt i s = some (s.slot (s.slotOf i))) := by
  unfold peekAt; split <;> [left; right] <;> constructor <;> first | rfl | omega

/-- COMMIT finds a stale tail, a count past SIZE, or advances. -/
theorem commitTail_cases (et c : Nat) (s : State) :
    (s.tail ≠ et ∧ commitTail et c s = .stale) ∨
      (s.tail = et ∧ s.size < c ∧ commitTail et c s = .outOfRange) ∨
      (s.tail = et ∧ c ≤ s.size ∧ commitTail et c s = .advanced (s.slotOf c)) := by
  unfold commitTail
  split
  · exact .inl ⟨‹_›, rfl⟩
  · rename_i h
    have h' : s.tail = et := by simpa using h
    split
    · exact .inr (.inl ⟨h', ‹_›, rfl⟩)
    · exact .inr (.inr ⟨h', by omega, rfl⟩)

/-- After a push the slot of HEAD holds the sample and every other slot reads as before. -/
theorem pushSample_read (v : Word) (s : State) (k : Nat) :
    (pushSample v s).buf.read k = if k = s.head then some v else s.buf.read k := by
  split
  · subst k; simp
  · simp only [pushSample_buf]; exact Memory.read_write_other _ _ ‹_›

/-- An edge is accepted and pushed, or leaves everything but IDLE alone. -/
theorem takeEdge_cases (l : Level) (now : Word) (s : State) :
    (l = edgeLevelFor s.cfg s.head ∧ takeEdge l now s =
      { pushSample (recordedSample s.cfg (idleMarked s.cfg s.idle (edgeDelta now s.lastUs))
          (edgeDelta now s.lastUs)) s with idle := false, lastUs := now }) ∨
    (l ≠ edgeLevelFor s.cfg s.head ∧ takeEdge l now s =
      { s with idle := idleMarked s.cfg s.idle (edgeDelta now s.lastUs) }) := by
  unfold takeEdge
  by_cases h : l = edgeLevelFor s.cfg s.head
  · exact .inl ⟨h, by simp [h, idleAfterEdge]⟩
  · exact .inr ⟨h, by simp [h, idleAfterEdge]⟩

/-- The next step takes the next event, or is the consumer's. -/
theorem step_cases (s : State) :
    (s.inbox = [] ∧ step s = consumerStep s) ∨
      (∃ rest, s.inbox = .tick :: rest ∧ step s = consumerStep { s with inbox := rest }) ∨
      (∃ a w d rest, s.inbox = .issue a w d :: rest ∧ step s = runWord w (s.taking rest a d)) := by
  rcases h : s.inbox with _ | ⟨e, rest⟩
  · exact .inl ⟨rfl, by simp [step, takeEvent, h]⟩
  · cases e with
    | issue a w d => exact .inr (.inr ⟨a, w, d, rest, rfl, by simp [step, takeEvent, h]⟩)
    | tick => exact .inr (.inl ⟨rest, rfl, by simp [step, takeEvent, h]⟩)

/-- A command word is decoded and executed, or refused as illegal. -/
theorem runWord_cases (w : CmdWord) (s : State) :
    (∃ i, decode w = .ok i ∧ runWord w s = exec i s) ∨
      (∃ e, decode w = .error e ∧ runWord w s = refuse .illegalCommand s) := by
  rcases h : decode w with e | i
  · exact .inr ⟨e, rfl, by simp [runWord, h]⟩
  · exact .inl ⟨i, rfl, by simp [runWord, h]⟩

end Sys2Proof.Machine
end

