-- ==== Sys2Proof/Laws/Decoder.lean ====
section
/-! SUPPORT. What the steps of a decode attempt can do, said once (42_frame_decoder.md R214). -/

namespace Sys2Proof.Machine

/-- The emitting loop stops at once, or shifts one bit in and goes on. -/
theorem emitBits_succ (c : Config.Params) (l : Level) (fuel b : Nat) (w : Word) (k : Nat) :
    emitBits c l (fuel + 1) (b, w, k) =
      if c.bp ≤ b ∧ k < Config.frameBits then
        emitBits c l fuel (b - c.bp, shiftIn w (bitOf c l), k + 1)
      else (b, w, k) := rfl

/-- A step of the attempt, by phase. -/
theorem consumerStep_cases (s : State) :
    (s.phase = .idle ∧ consumerStep s = .next s) ∨ (s.phase = .snap ∧ consumerStep s = snapStep s)
      ∨ (s.phase = .sync ∧ consumerStep s = syncStep s) ∨ (s.phase = .bits ∧ consumerStep s = bitsStep s)
      ∨ (s.phase = .commit ∧ consumerStep s = commitStep s) := by
  unfold consumerStep
  cases h : s.phase <;> simp

/-- PH_SYNC ends the attempt, finds the marker, or passes a sample over. -/
theorem syncStep_cases (s : State) :
    (s.size ≤ s.q ∧ syncStep s = finishPoll (.pollAbsent .noSync) s)
      ∨ (s.q < s.size ∧ syncMatch s (s.slot (s.slotOf s.q)) = true ∧ syncStep s =
          .next ({ s with p := s.q, lvl := .high, budget := s.cfg.budgetInit, word := 0, nb := 0,
                          phase := .bits }.reporting .nothing))
      ∨ (s.q < s.size ∧ syncMatch s (s.slot (s.slotOf s.q)) = false ∧ syncStep s =
          .next ({ s with prev := s.slot (s.slotOf s.q), q := s.q + 1 }.reporting .nothing)) := by
  rcases peekAt_cases s.q s with ⟨h, e⟩ | ⟨h, e⟩
  · exact .inl ⟨h, by simp [syncStep, e]⟩
  · cases hm : syncMatch s (s.slot (s.slotOf s.q))
    · exact .inr (.inr ⟨h, rfl, by simp [syncStep, e, hm]⟩)
    · exact .inr (.inl ⟨h, rfl, by simp [syncStep, e, hm]⟩)

/-- PH_COMMIT loses the race, faults, or ends the attempt with the classification. -/
theorem commitStep_cases (s : State) :
    (s.tail ≠ s.et ∧ commitStep s = finishPoll (.pollAbsent .race) s)
      ∨ (s.tail = s.et ∧ s.size < s.p ∧ commitStep s = .fault (.commitRange s.et s.p s.size))
      ∨ (s.tail = s.et ∧ s.p ≤ s.size ∧ commitStep s =
          finishPoll (classify s.cfg s.word) { s with tail := s.slotOf s.p }) := by
  rcases commitTail_cases s.et s.p s with ⟨h, e⟩ | ⟨h, h', e⟩ | ⟨h, h', e⟩
  · exact .inl ⟨h, by simp [commitStep, e]⟩
  · exact .inr (.inl ⟨h, h', by simp [commitStep, e]⟩)
  · exact .inr (.inr ⟨h, h', by simp [commitStep, e]⟩)

/-- PH_BITS ends the attempt when no further sample is retained. -/
theorem bitsStep_short {s : State} (h : s.size ≤ s.p + 1) :
    bitsStep s = finishPoll (.pollAbsent .short) { s with p := s.p + 1 } := by
  have e : peekAt (s.p + 1) s = none := by simp [peekAt, h]
  simp [bitsStep, e]

/-- PH_BITS consumes the next retained sample and emits the bits it completes. -/
theorem bitsStep_consume {s : State} (h : s.p + 1 < s.size) {b : Nat} {w : Word} {k : Nat}
    (he : emitBits s.cfg s.lvl.flip Config.frameBits
      (s.budget + (s.slot (s.slotOf (s.p + 1))).toNat, s.word, s.nb) = (b, w, k)) :
    bitsStep s = .next ({ s with p := s.p + 1, lvl := s.lvl.flip, budget := b, word := w, nb := k,
                                 phase := if k = Config.frameBits then .commit else .bits }.reporting .nothing) := by
  have e : peekAt (s.p + 1) s = some (s.slot (s.slotOf (s.p + 1))) := by simp [peekAt, Nat.not_le.2 h]
  simp [bitsStep, e, he]

end Sys2Proof.Machine
end

