-- ==== Sys2Proof/Laws/Encoding.lean ====
section
/-! SUPPORT. The fields of a command word and the packed word as arithmetic (30_encoding.md R111, R115). -/

namespace Sys2Proof

theorem splitWord_op_toNat (w : CmdWord) : (splitWord w).op.toNat = w.toNat % 16 := by
  simp [splitWord, BitVec.extractLsb'_toNat]

theorem splitWord_l_toNat (w : CmdWord) : (splitWord w).l.toNat = w.toNat / 16 % 2 := by
  simp [splitWord, BitVec.extractLsb'_toNat, Nat.shiftRight_eq_div_pow]

theorem splitWord_reservedLow_toNat (w : CmdWord) : (splitWord w).reservedLow.toNat = w.toNat / 32 % 8 := by
  simp [splitWord, BitVec.extractLsb'_toNat, Nat.shiftRight_eq_div_pow]

theorem splitWord_a_toNat (w : CmdWord) : (splitWord w).a.toNat = w.toNat / 256 % 256 := by
  simp [splitWord, BitVec.extractLsb'_toNat, Nat.shiftRight_eq_div_pow]

theorem splitWord_b_toNat (w : CmdWord) : (splitWord w).b.toNat = w.toNat / 65536 % 256 := by
  simp [splitWord, BitVec.extractLsb'_toNat, Nat.shiftRight_eq_div_pow]

theorem splitWord_reservedHigh_toNat (w : CmdWord) :
    (splitWord w).reservedHigh.toNat = w.toNat / 16777216 % 256 := by
  simp [splitWord, BitVec.extractLsb'_toNat, Nat.shiftRight_eq_div_pow]

theorem splitWord_v_toNat (w : CmdWord) : (splitWord w).v.toNat = w.toNat / 4294967296 % 4294967296 := by
  simp [splitWord, BitVec.extractLsb'_toNat, Nat.shiftRight_eq_div_pow]

/-- The packed word as a number. -/
theorem packWord_toNat (op l : Nat) (a b : Byte) (v : Word) (hop : op < 16) (hl : l < 2) :
    (packWord op l a b v).toNat
      = v.toNat * 4294967296 + b.toNat * 65536 + a.toNat * 256 + l * 16 + op := by
  have ha : a.toNat < 256 := a.isLt
  have hb : b.toNat < 256 := b.isLt
  have hv : v.toNat < 4294967296 := v.isLt
  simp only [packWord, BitVec.toNat_ofNat, Nat.reducePow]
  omega

end Sys2Proof
end

