-- ==== Sys2Proof/Laws/Inv.lean ====
section
/-! SUPPORT. The invariant of a written-out state is one decidable conjunction. -/

namespace Sys2Proof.Machine

/-- The clauses of the invariant together; on a written-out state `decide` settles them. -/
theorem State.Inv.of_clauses {s : State}
    (h : s.cfg.wf = true ∧ s.buf.wf = true ∧ (∀ c ∈ s.buf, c.1 < s.cfg.n) ∧ s.head < s.cfg.n ∧ s.tail < s.cfg.n
      ∧ (s.active = true → ∀ i, i < s.size → (s.buf.read (s.slotOf i)).isSome = true)
      ∧ (s.line.bothEdgeInterrupt = s.active ∧ s.line.handlerInstalled = s.active)
      ∧ (s.phase ≠ .idle → s.active = true)
      ∧ (s.phase = .sync ∨ s.phase = .bits ∨ s.phase = .commit → s.et < s.cfg.n)
      ∧ (s.phase = .sync → s.q < s.cfg.n)
      ∧ (s.phase = .bits ∨ s.phase = .commit → s.p + 1 < s.cfg.n)
      ∧ (s.phase = .bits → s.budget < s.cfg.bp ∧ s.nb < Config.frameBits)
      ∧ (s.phase = .commit → s.budget < s.cfg.bp + 2 ^ 32 ∧ s.nb = Config.frameBits)) : s.Inv := by
  obtain ⟨h1, h2, h3, h4, h5, h6, h7, h8, h9, h10, h11, h12, h13⟩ := h
  exact ⟨h1, h2, h3, h4, h5, h6, h7, h8, h9, h10, h11, h12, h13⟩

end Sys2Proof.Machine
end

