-- ==== Sys2Proof/Laws/PerInstr.lean ====
section
/-! SUPPORT. Facts about every instruction as syntax, one lemma for each constructor. -/

namespace Sys2Proof.Laws.WordShape

open Sys2Proof

/-- The encoding of `i` names its operation in bits 3..0 and leaves the reserved bits 7..5 and 31..24 zero
(30_encoding.md R111, R112). -/
def Statement (i : Instr) : Prop :=
  (instrOfFields (splitWord (encode i))).map Instr.mnemonic = some i.mnemonic
    ∧ (splitWord (encode i)).reservedLow = 0 ∧ (splitWord (encode i)).reservedHigh = 0

/-- The opcode and the reserved fields of a packed word. -/
theorem split_packWord (op l : Nat) (a b : Byte) (v : Word) (hop : op < 16) (hl : l < 2) :
    (splitWord (packWord op l a b v)).op.toNat = op
      ∧ (splitWord (packWord op l a b v)).reservedLow = 0
      ∧ (splitWord (packWord op l a b v)).reservedHigh = 0 := by
  have ha : a.toNat < 256 := a.isLt
  have hb : b.toNat < 256 := b.isLt
  have h := packWord_toNat op l a b v hop hl
  refine ⟨?_, BitVec.eq_of_toNat_eq ?_, BitVec.eq_of_toNat_eq ?_⟩
  · rw [splitWord_op_toNat, h]; omega
  · rw [splitWord_reservedLow_toNat, h]; simp only [BitVec.ofNat_eq_ofNat, BitVec.toNat_ofNat, Nat.zero_mod]; omega
  · rw [splitWord_reservedHigh_toNat, h]; simp only [BitVec.ofNat_eq_ofNat, BitVec.toNat_ofNat, Nat.zero_mod]; omega

/-- A packed word has the shape of the instruction its opcode names. -/
theorem of_packWord {i : Instr} {op l : Nat} {a b : Byte} {v : Word} (he : encode i = packWord op l a b v)
    (hop : op < 16) (hl : l < 2)
    (hm : ∀ f : Fields, f.op.toNat = op → (instrOfFields f).map Instr.mnemonic = some i.mnemonic) : Statement i := by
  obtain ⟨h1, h2, h3⟩ := split_packWord op l a b v hop hl
  rw [← he] at h1 h2 h3
  exact ⟨hm _ h1, h2, h3⟩

theorem init : Statement .init := of_packWord rfl (by decide) (by decide) fun f h => by
  simp [instrOfFields, h, Instr.mnemonic]

theorem teardown : Statement .teardown := of_packWord rfl (by decide) (by decide) fun f h => by
  simp [instrOfFields, h, Instr.mnemonic]

theorem poll : Statement .poll := of_packWord rfl (by decide) (by decide) fun f h => by
  simp [instrOfFields, h, Instr.mnemonic]

theorem edge (lvl : Level) (now : Word) : Statement (.edge lvl now) :=
  of_packWord rfl (by decide) (by cases lvl <;> decide) fun f h => by
    simp [instrOfFields, h, Instr.mnemonic]

theorem push (v : Word) : Statement (.push v) := of_packWord rfl (by decide) (by decide) fun f h => by
  simp [instrOfFields, h, Instr.mnemonic]

theorem peek (i : Byte) : Statement (.peek i) := of_packWord rfl (by decide) (by decide) fun f h => by
  simp [instrOfFields, h, Instr.mnemonic]

theorem snap : Statement .snap := of_packWord rfl (by decide) (by decide) fun f h => by
  simp [instrOfFields, h, Instr.mnemonic]

theorem commit (et c : Byte) : Statement (.commit et c) := of_packWord rfl (by decide) (by decide) fun f h => by
  simp [instrOfFields, h, Instr.mnemonic]

theorem valid (w : Word) : Statement (.valid w) := of_packWord rfl (by decide) (by decide) fun f h => by
  simp [instrOfFields, h, Instr.mnemonic]

theorem parity (w : Word) : Statement (.parity w) := of_packWord rfl (by decide) (by decide) fun f h => by
  simp [instrOfFields, h, Instr.mnemonic]

theorem isnum (w : Word) : Statement (.isnum w) := of_packWord rfl (by decide) (by decide) fun f h => by
  simp [instrOfFields, h, Instr.mnemonic]

theorem height (w : Word) : Statement (.height w) := of_packWord rfl (by decide) (by decide) fun f h => by
  simp [instrOfFields, h, Instr.mnemonic]

end Sys2Proof.Laws.WordShape
end

