-- ==== Sys2Proof/Tests/Slice0.lean ====
section
/-! SUPPORT. The model's own tests. Expected values come from spec/95_test_vectors.md, or from the spec's encodings
written out by hand; each test names its source. -/

namespace Sys2Proof.Tests

open Sys2Proof Sys2Proof.Machine

/-! ## Well-formedness: each check refuses an ill-formed term (00_scope.md R11, R12; 30_encoding.md R98, R113) -/

theorem test_tc_is_wellformed : Config.tc.wf = true ∧ Config.tc4.wf = true := by decide
theorem test_odd_n_refused : ({ Config.tc with n := 81 }).wf = false := by decide
theorem test_small_n_refused : ({ Config.tc with n := 0 }).wf = false := by decide
theorem test_large_n_refused : ({ Config.tc with n := 258 }).wf = false := by decide
theorem test_zero_bp_refused : ({ Config.tc with bp := 0 }).wf = false := by decide
theorem test_large_bp_refused : ({ Config.tc with bp := 107374183 }).wf = false := by decide
theorem test_type_over_payload_refused : ({ Config.tc with typeLsb := 8, typeTag := 0x5A1 }).wf = false := by decide
theorem test_type_inside_magic_refused : ({ Config.tc with typeLsb := 20, typeTag := 0x5A1 }).wf = false := by decide
theorem test_shared_bits_refused : ({ Config.tc with typeTag := 0x002 }).wf = false := by decide

/-- ENC-9 to ENC-16: a word for each ground of R113. -/
theorem test_illegal_words : ([0x0, 0xD, 0x17, 0x0000000100000007, 0x1000306, 0x26, 0x10306, 0x105] : List CmdWord).map
    legalWord = List.replicate 8 false := by decide
theorem test_illegal_words_named :
    decode 0x0 = .error .illegalOpcode ∧ decode 0x17 = .error .unusedFieldL
      ∧ decode 0x0000000100000007 = .error .unusedFieldV ∧ decode 0x1000306 = .error .reservedBit
      ∧ decode 0x26 = .error .reservedBit ∧ decode 0x10306 = .error .unusedFieldB
      ∧ decode 0x105 = .error .unusedFieldA := by decide
/-- 30_encoding.md R113: no word fits two rows of the table. -/
theorem test_rows_disjoint : opcodeTable.Pairwise fun r r' => r.pattern &&& r'.mask &&& r.mask ≠ r'.pattern &&& r.mask &&& r'.mask := by
  decide

/-! ## Decoding: one word for each constructor, from the bit patterns of the opcode table -/

theorem test_decode_init : decode 0x0000000000000001 = .ok .init := by decide
theorem test_decode_teardown : decode 0x0000000000000002 = .ok .teardown := by decide
theorem test_decode_poll : decode 0x0000000000000003 = .ok .poll := by decide
/-- ENC-4 -/
theorem test_decode_edge : decode 0x000003E800000014 = .ok (.edge .high 1000) := by decide
/-- ENC-5 -/
theorem test_decode_push : decode 0x0000AFC800000005 = .ok (.push 45000) := by decide
/-- ENC-2 -/
theorem test_decode_peek : decode 0x0000000000000306 = .ok (.peek 3) := by decide
/-- ENC-1 -/
theorem test_decode_snap : decode 0x0000000000000007 = .ok .snap := by decide
/-- PROG-2 line 12 -/
theorem test_decode_commit : decode 0x0000000000030208 = .ok (.commit 3 2) := by decide
theorem test_decode_valid : decode 0x5A1004B400000009 = .ok (.valid 0x5A1004B4) := by decide
theorem test_decode_parity : decode 0xFFFFFFFF0000000A = .ok (.parity 0xFFFFFFFF) := by decide
theorem test_decode_isnum : decode 0x5A1000B40000000B = .ok (.isnum 0x5A1000B4) := by decide
/-- ENC-6 -/
theorem test_decode_height : decode 0x5A1004B40000000C = .ok (.height 0x5A1004B4) := by decide
/-- the host's entry reads the same decoder -/
theorem test_decode_table_word : decodeTableWord 64 0x0000AFC800000005 = some (.push 45000)
    ∧ decodeTableWord 8 0xF07 = some .snap := by decide
/-- PROG-1 lines 2 and 3 as pseudo-instructions (30_encoding.md R119) -/
theorem test_assemble : assemble Config.tc 0 [.fall 100000, .wait 45000, .rise 145000, .pushIdle]
    = [0x000186A000000004, 0x0002366800000014, 0xFFFFFFFF00000005] := by decide

/-! ## One step of each instruction -/

/-- Part of a next state. -/
def seen {α : Type} (r : StepResult) (f : State → α) : Option α :=
  match r with
  | .next t => some (f t)
  | .fault _ => none
  | .refused _ => none

/-- A capturing instance of TC4 with samples in slots 0, 1, … and a command of agent `a` to run. -/
def ring (a : Agent) (samples : List Word) (head tail : Nat) : State :=
  { State.initial Config.tc4 with
    agent := a
    active := true
    line := LineConfig.capturing
    buf := (List.range samples.length).zip samples
    head := head
    tail := tail }

def okDraw : Draw := ⟨true, 7, true, 6, 1⟩

/-- IF-1, with other draws -/
theorem test_init_ok : seen (exec .init { State.reset with draw := okDraw })
    (fun t => (t.active, t.head, t.tail, t.lastUs, t.idle, t.report))
      = some (true, 0, 0, 7, true, .result .initOk) := by decide
/-- IF-2 -/
theorem test_init_fail : seen (exec .init State.reset) (fun t => (t.active, t.report))
    = some (false, .result .initFail) := by decide
/-- IF-6 -/
theorem test_teardown : seen (exec .teardown (ring .host [1, 2, 3] 3 0)) (fun t => (t.active, t.phase, t.report))
    = some (false, .idle, .result .noValue) := by decide
/-- IF-7 -/
theorem test_teardown_in_poll : seen (exec .teardown { ring .host [] 0 0 with phase := .sync })
    (fun t => (t.active, t.report)) = some (true, .refused .pollInProgress) := by decide
theorem test_poll_starts : seen (exec .poll (ring .host [] 0 0)) (fun t => (t.phase, t.report))
    = some (.snap, .nothing) := by decide
/-- ED-12 -/
theorem test_edge_evicts : seen (exec (.edge .high 700) (ring .producer [10, 20, 30] 3 0))
    (fun t => (t.head, t.tail, t.buf.read 3, t.lastUs, t.idle)) = some (0, 1, some 700, 700, false) := by decide
/-- ED-9: the time base wraps -/
theorem test_edge_wraps : seen (exec (.edge .low 0x300) { ring .producer [] 0 0 with lastUs := 0xFFFFFF00 })
    (fun t => (t.head, t.buf.read 0, t.lastUs)) = some (1, some 1024, 0x300) := by decide
/-- RB-3 -/
theorem test_push_full : seen (exec (.push 40) (ring .producer [10, 20, 30] 3 0))
    (fun t => (t.head, t.tail, t.buf)) = some (0, 1, [(0, 10), (1, 20), (2, 30), (3, 40)]) := by decide
/-- RB-1 -/
theorem test_push_empty : seen (exec (.push 10) (ring .producer [] 0 0))
    (fun t => (t.head, t.tail, t.buf)) = some (1, 0, [(0, 10)]) := by decide
/-- RB-5 -/
theorem test_peek_last : seen (exec (.peek 2) (ring .consumer [10, 20, 30, 40] 0 1)) (·.report)
    = some (.result (.sample (some 40))) := by decide
/-- RB-5 -/
theorem test_peek_none : seen (exec (.peek 3) (ring .consumer [10, 20, 30, 40] 0 1)) (·.report)
    = some (.result (.sample none)) := by decide
/-- PROG-2 line 8 -/
theorem test_snap : seen (exec .snap (ring .consumer [10, 20, 30, 40] 0 1)) (·.report)
    = some (.result (.tailIndex 1)) := by decide
/-- RB-17 for SNAP -/
theorem test_snap_by_host : seen (exec .snap (ring .host [] 0 0)) (·.report)
    = some (.refused .wrongContext) := by decide
/-- PROG-2 line 9 -/
theorem test_commit : seen (exec (.commit 1 2) (ring .consumer [10, 20, 30, 40] 0 1)) (fun t => (t.tail, t.report))
    = some (3, .result (.committed true)) := by decide
/-- PROG-2 line 12 -/
theorem test_commit_fault : exec (.commit 3 2) (ring .consumer [10, 20, 30, 40] 0 3) = .fault (.commitRange 3 2 1) := rfl
/-- VAL-2 -/
theorem test_valid : seen (exec (.valid 0x5A2004B4) State.reset) (·.report) = some (.result (.truth false)) := by decide
/-- VAL-10 -/
theorem test_parity : seen (exec (.parity 0xFFFFFFFF) State.reset) (·.report) = some (.result (.truth true)) := by decide
/-- VAL-3 and VAL-1 -/
theorem test_isnum : seen (exec (.isnum 0x5A1000B4) State.reset) (·.report) = some (.result (.truth false))
    ∧ seen (exec (.isnum 0x5A1004B4) State.reset) (·.report) = some (.result (.truth true)) := by decide
/-- VAL-7: a payload that is no palindrome -/
theorem test_height : seen (exec (.height 0x5A100424) State.reset) (·.report) = some (.result (.heightOf 72)) := by
  decide
/-- 30_encoding.md R106 -/
theorem test_result_encoding : (Result.sample (some 3)).encoded = some 0x100000003#33
    ∧ (Result.sample none).encoded = some 0 ∧ Result.initFail.encoded = some 1 := by decide
/-- every row's word runs as the first instruction of a run: INIT starts capture -/
theorem test_first_instruction : seen (step (State.reset.withFetchWord 64 1)) (fun t => (t.active, t.report))
    = some (true, .result .initOk) := by decide

/-! ## Witnesses: a state and operands for the hypotheses of each statement -/

/-- A POLL in progress over the samples of `ring`. -/
def attempt (ph : Phase) (samples : List Word) (head tail : Nat) : State :=
  { ring .host samples head tail with phase := ph, et := tail, nb := if ph = .commit then 32 else 0 }

theorem ring_inv : (ring .producer [10, 20] 2 0).Inv ∧ (ring .producer [10, 20, 30] 3 0).Inv
    ∧ (ring .consumer [10, 20, 30, 40] 0 1).Inv ∧ (ring .host [] 0 0).Inv := by
  refine ⟨.of_clauses ?_, .of_clauses ?_, .of_clauses ?_, .of_clauses ?_⟩ <;> decide

theorem attempt_inv : (attempt .snap [10, 20] 2 0).Inv ∧ (attempt .commit [10, 20, 30] 3 0).Inv
    ∧ (attempt .bits [10, 20, 30] 3 0).Inv := by
  refine ⟨.of_clauses ?_, .of_clauses ?_, .of_clauses ?_⟩ <;> decide

theorem reset_inv : State.reset.Inv := .of_clauses (by decide)

theorem test_witness_EncodeOfDecodeIsIdentity : decode 0x7 = .ok .snap := by decide
theorem test_witness_StepRunsDecodedCommand : ∃ s : State, ∃ a w d rest i,
    s.inbox = .issue a w d :: rest ∧ decode w = .ok i :=
  ⟨{ State.reset with inbox := [.issue .consumer 7 okDraw] }, .consumer, 7, okDraw, [], .snap, rfl, by decide⟩
theorem test_witness_IllegalWordIsRefused : ∃ s : State, ∃ a w d rest,
    s.inbox = .issue a w d :: rest ∧ legalWord w = false :=
  ⟨{ State.reset with inbox := [.issue .host 0x17 okDraw] }, .host, 0x17, okDraw, [], rfl, by decide⟩
theorem test_witness_RunBeginsInInvariant : Config.tc4.wf = true := by decide
theorem test_witness_StepKeepsInvariant : ∃ s t : State, s.Inv ∧ step s = .next t :=
  ⟨ring .host [] 0 0, _, ring_inv.2.2.2, rfl⟩
theorem test_witness_ParametersNeverChange : ∃ s t : State, step s = .next t := ⟨State.reset, _, rfl⟩
theorem test_witness_OnlyFaultIsCommitRange_command : ∃ f,
    step { ring .consumer [10, 20] 2 0 with inbox := [.issue .consumer 0x308 okDraw] } = .fault f := ⟨_, rfl⟩
theorem test_witness_OnlyFaultIsCommitRange_attempt : ∃ f,
    step { attempt .commit [10, 20] 2 0 with p := 3 } = .fault f := ⟨_, rfl⟩
theorem test_witness_WrongAgentIsRefused : mayIssue (ring .host [] 0 0).agent .snap = false := by decide
theorem test_witness_LifecycleMisuseIsRefused :
    (mayIssue State.reset.agent .poll = true ∧ needsActive .poll = true ∧ State.reset.active = false)
      ∧ (mayIssue (ring .host [] 0 0).agent .init = true ∧ (ring .host [] 0 0).active = true)
      ∧ (mayIssue (attempt .snap [] 0 0).agent .teardown = true ∧ (attempt .snap [] 0 0).active = true
          ∧ (attempt .snap [] 0 0).phase ≠ .idle) := by decide
theorem test_witness_RefusedCommandChangesNothing : ∃ t,
    exec .snap (ring .host [] 0 0) = .next t ∧ t.report = .refused .wrongContext := ⟨_, rfl, rfl⟩
theorem test_witness_InitStartsCapture : ∃ s : State, s.agent = .host ∧ s.active = false ∧ s.draw.initOk = true :=
  ⟨{ State.reset with draw := okDraw }, rfl, rfl, rfl⟩
theorem test_witness_FailedInitChangesNothing :
    State.reset.agent = .host ∧ State.reset.active = false ∧ State.reset.draw.initOk = false := by decide
theorem test_witness_host_while_active :
    (ring .host [] 0 0).agent = .host ∧ (ring .host [] 0 0).active = true ∧ (ring .host [] 0 0).phase = .idle := by
  decide
/-- TEARDOWN's free indices at the ends of their range. -/
theorem test_witness_TeardownReleasesCapture :
    seen (exec .teardown { ring .host [] 0 0 with draw := ⟨false, 0, false, 3, 0⟩ }) (fun t => (t.head, t.tail))
      = some (3, 0) := by decide
theorem test_witness_AcceptedEdgeRecordsSample : ∃ s : State, s.agent = .producer ∧ s.active = true
    ∧ Level.low = (if s.head % 2 = 0 then s.cfg.evenEdgeLevel else s.cfg.evenEdgeLevel.flip) :=
  ⟨ring .producer [10, 20] 2 0, rfl, rfl, rfl⟩
theorem test_witness_RejectedEdgeOnlyMarksIdle : ∃ s : State, s.agent = .producer ∧ s.active = true
    ∧ Level.high ≠ (if s.head % 2 = 0 then s.cfg.evenEdgeLevel else s.cfg.evenEdgeLevel.flip) :=
  ⟨ring .producer [10, 20] 2 0, rfl, rfl, by decide⟩
theorem test_witness_EdgeWhileInactiveIsNoOp : ∃ s : State, s.agent = .producer ∧ s.active = false :=
  ⟨{ State.reset with agent := .producer }, rfl, rfl⟩
theorem test_witness_RecordedSampleIsBounded : ∃ t, exec (.edge .low 50000) (ring .producer [10, 20] 2 0) = .next t
    ∧ t.buf.read 2 = some 50000 ∧ (ring .producer [10, 20] 2 0).buf.read 2 ≠ some 50000 :=
  ⟨_, rfl, by decide, by decide⟩
theorem test_witness_AcceptedLevelsAlternate : ∃ s t u : State, s.Inv ∧ s.agent = .producer ∧ s.active = true
    ∧ exec (.edge .high 5) s = .next t ∧ t.head ≠ s.head ∧ exec (.edge .low 9) t = .next u ∧ u.head ≠ t.head :=
  ⟨ring .producer [10, 20, 30] 3 0, _, _, ring_inv.2.1, rfl, rfl, rfl, by decide, rfl, by decide⟩
theorem test_witness_PushStoresAtHead :
    (ring .producer [10, 20] 2 0).agent = .producer ∧ (ring .producer [10, 20] 2 0).active = true := by decide
/-- a buffer with one free place, and a full one -/
theorem test_witness_PushAppendsToRetained :
    (∃ t, (ring .producer [10, 20] 2 0).Inv ∧ exec (.push 30) (ring .producer [10, 20] 2 0) = .next t
        ∧ (ring .producer [10, 20] 2 0).size = 2)
      ∧ ∃ t, (ring .producer [10, 20, 30] 3 0).Inv ∧ exec (.push 40) (ring .producer [10, 20, 30] 3 0) = .next t
        ∧ (ring .producer [10, 20, 30] 3 0).size = 3 :=
  ⟨⟨_, ring_inv.1, rfl, rfl⟩, _, ring_inv.2.1, rfl, rfl⟩
theorem test_witness_PushSequenceKeepsNewest : ∃ s : State, s.Inv ∧ s.active = true
    ∧ s.inbox = pushEvents okDraw [40, 50] :=
  ⟨{ ring .producer [10, 20] 2 0 with inbox := pushEvents okDraw [40, 50] }, .of_clauses (by decide), rfl, rfl⟩
theorem test_witness_consumer_while_active :
    (ring .consumer [10, 20, 30, 40] 0 1).agent = .consumer ∧ (ring .consumer [10, 20, 30, 40] 0 1).active = true
      ∧ (ring .consumer [10, 20, 30, 40] 0 1).Inv := ⟨rfl, rfl, ring_inv.2.2.1⟩
theorem test_witness_PeekReturnsOnlyPushedSamples : ∃ t, (ring .consumer [10, 20, 30, 40] 0 1).Inv
    ∧ exec (.peek 2) (ring .consumer [10, 20, 30, 40] 0 1) = .next t
    ∧ t.report = .result (.sample (some 40)) := ⟨_, ring_inv.2.2.1, rfl, rfl⟩
/-- the count 0 and the count SIZE -/
theorem test_witness_CommitAdvancesTail : (ring .consumer [10, 20, 30, 40] 0 1).tail = (1 : Byte).toNat
    ∧ (0 : Byte).toNat ≤ (ring .consumer [10, 20, 30, 40] 0 1).size
    ∧ (3 : Byte).toNat ≤ (ring .consumer [10, 20, 30, 40] 0 1).size := by decide
theorem test_witness_StaleCommitChangesNothing :
    (ring .consumer [10, 20, 30, 40] 0 1).tail ≠ (255 : Byte).toNat := by decide
/-- the count SIZE + 1 -/
theorem test_witness_CommitPastHeadFaults : (ring .consumer [10, 20, 30, 40] 0 1).tail = (1 : Byte).toNat
    ∧ (ring .consumer [10, 20, 30, 40] 0 1).size < (4 : Byte).toNat := by decide
theorem test_witness_CommitRetiresOldest : ∃ t, (ring .consumer [10, 20, 30, 40] 0 1).Inv
    ∧ exec (.commit 1 3) (ring .consumer [10, 20, 30, 40] 0 1) = .next t
    ∧ t.report = .result (.committed true) := ⟨_, ring_inv.2.2.1, rfl, rfl⟩

/-- A state about to classify VAL-1's frame. -/
def aboutToCommit : State := { attempt .commit [10, 20, 30] 3 0 with word := 0x5A1004B4, p := 2 }

theorem test_witness_PollNeverReportsZeroHeight : ∃ t, aboutToCommit.report ≠ .result (.pollHeight 90)
    ∧ step aboutToCommit = .next t ∧ t.report = .result (.pollHeight 90) := ⟨_, by decide, rfl, rfl⟩
theorem test_witness_SnapStepTakesSnapshot : (attempt .snap [] 0 0).consumersTurn ∧ (attempt .snap [] 0 0).phase = .snap :=
  ⟨.inl rfl, rfl⟩
/-- NONE, a marker, and a sample passed over -/
theorem test_witness_SyncStepSearchesMarker :
    (∃ s : State, s.consumersTurn ∧ s.phase = .sync ∧ s.size = s.q)
      ∧ seen (step { attempt .sync [1, 41000, 1999] 3 0 with q := 2, prev := 40001 }) (fun t => (t.phase, t.p))
          = some (.bits, 2)
      ∧ seen (step { attempt .sync [1, 41000, 2000] 3 0 with q := 2, prev := 40001 }) (fun t => (t.phase, t.q))
          = some (.sync, 3) :=
  ⟨⟨{ attempt .sync [1, 2] 2 0 with q := 2 }, .inl rfl, rfl, rfl⟩, by decide, by decide⟩
/-- NONE, a sample that completes some bits, and one that completes the last -/
theorem test_witness_BitsStepResamples :
    (∃ s : State, s.consumersTurn ∧ s.phase = .bits ∧ 1 ≤ s.cfg.bp ∧ s.nb < 32 ∧ s.size = s.p + 1)
      ∧ seen (step { attempt .bits [1, 2, 1500] 3 0 with p := 1, budget := 500 }) (fun t => (t.phase, t.nb, t.budget))
          = some (.bits, 2, 0)
      ∧ seen (step { attempt .bits [1, 2, 0xFFFFFFFF] 3 0 with p := 1, nb := 31 }) (fun t => (t.phase, t.nb))
          = some (.commit, 32) :=
  ⟨⟨{ attempt .bits [1, 2] 2 0 with p := 1 }, .inl rfl, rfl, by decide, by decide, rfl⟩, by decide, by decide⟩
/-- the three clauses: a count in range, a tail that has moved, the count SIZE + 1 -/
theorem test_witness_CommitStepEndsAttempt : aboutToCommit.consumersTurn ∧ aboutToCommit.phase = .commit
    ∧ aboutToCommit.tail = aboutToCommit.et ∧ aboutToCommit.p ≤ aboutToCommit.size
    ∧ ({ aboutToCommit with tail := 1 }).tail ≠ aboutToCommit.et
    ∧ aboutToCommit.size < ({ aboutToCommit with p := 4 }).p := ⟨.inl rfl, rfl, rfl, by decide, by decide, by decide⟩
theorem test_witness_ConsumerWritesOnlyTailByCommit : ∃ t, aboutToCommit.consumersTurn ∧ step aboutToCommit = .next t
    ∧ t.tail ≠ aboutToCommit.tail := ⟨_, .inl rfl, rfl, by decide⟩
theorem test_witness_AttemptNeverFaults : (attempt .bits [10, 20, 30] 3 0).Inv
    ∧ (attempt .bits [10, 20, 30] 3 0).ScanRetained
    ∧ ∀ a w d et c, (attempt .bits [10, 20, 30] 3 0).inbox.head? = some (.issue a w d) →
        decode w ≠ .ok (.commit et c) :=
  ⟨attempt_inv.2.2, fun _ => by decide, fun _ _ _ _ _ h => by cases h⟩
theorem test_witness_AttemptEndsWithinBound : ∃ t, (attempt .snap [10, 20] 2 0).Inv
    ∧ (attempt .snap [10, 20] 2 0).phase = .snap ∧ runSteps 5 (attempt .snap [10, 20] 2 0) = .next t
    ∧ (attempt .snap [10, 20] 2 0).cfg.n + 1 ≤ consumerTurns (attempt .snap [10, 20] 2 0).inbox 5 :=
  ⟨_, attempt_inv.1, rfl, rfl, by decide⟩
theorem test_witness_UninterruptedAttemptComputesDecode : (attempt .snap [10, 20] 2 0).Inv
    ∧ (attempt .snap [10, 20] 2 0).phase = .snap ∧ (attempt .snap [10, 20] 2 0).inbox = [] :=
  ⟨attempt_inv.1, rfl, rfl⟩
theorem test_witness_BitsAreSampledAtInstants : Config.tc.wf = true
    ∧ findSync Config.tc 1 0 0 [40001, 1999, 40000] = some (1, [40000])
    ∧ frameAfterSync Config.tc 1 [40000] = some (0, 2) := by decide +kernel
theorem test_witness_IdealTimingRoundTrip : Config.tc.wf = true ∧ findSync Config.tc 0 0 0 ([7] ++ [40001]) = none
    ∧ intervalLevel Config.tc ((0 + [7].length) % Config.tc.n) = .low ∧ 40 * Config.tc.bp < (40001 : Word).toNat
    ∧ (1999 : Word).toNat < 2 * Config.tc.bp ∧ (0x5A1004B4 : Word).getLsbD 31 = bitOf Config.tc .low := by decide
theorem test_witness_EvictionBeforeCommitLosesRace : ∃ s : State, s.Inv ∧ s.phase = .commit ∧ s.tail = s.et
    ∧ s.size = s.cfg.n - 1 ∧ [1, 2, 3].length % s.cfg.n ≠ 0 ∧ s.inbox = pushEvents okDraw [1, 2, 3] :=
  ⟨{ aboutToCommit with inbox := pushEvents okDraw [1, 2, 3] }, .of_clauses (by decide), rfl, rfl, by decide,
    by decide, rfl⟩
theorem test_witness_FullWrapOfEvictionsIsNotDetected : ∃ s : State, s.Inv ∧ s.phase = .commit ∧ s.tail = s.et
    ∧ s.size = s.cfg.n - 1 ∧ [1, 2, 3, 4].length = s.cfg.n ∧ s.inbox = pushEvents okDraw [1, 2, 3, 4] :=
  ⟨{ aboutToCommit with inbox := pushEvents okDraw [1, 2, 3, 4] }, .of_clauses (by decide), rfl, rfl, by decide,
    by decide, rfl⟩

end Sys2Proof.Tests
end

section
/-! The ring buffer's arithmetic: what the retained samples are after a push and after the tail moves
(40_ring_buffer.md R132, R138, R141). -/

namespace Sys2Proof.Machine

/-! ## Parameters -/

/-- What the constraints on the parameters say of N and BP (00_scope.md R11, R12). -/
theorem wf_bounds {c : Config.Params} (h : c.wf = true) :
    c.n % 2 = 0 ∧ 2 ≤ c.n ∧ c.n ≤ 256 ∧ 1 ≤ c.bp := by
  simp only [Config.Params.wf, Bool.and_eq_true, beq_iff_eq, decide_eq_true_eq] at h
  omega

/-! ## Offsets and slots -/

/-- Reduction modulo N of a number below 2·N. -/
theorem mod_eq_ite_of_lt_two_mul {a n : Nat} (h : a < 2 * n) : a % n = if a < n then a else a - n := by
  split
  · exact Nat.mod_eq_of_lt ‹_›
  · rw [Nat.mod_eq_sub_mod (by omega), Nat.mod_eq_of_lt (by omega)]

/-- SIZE without the modulus, for two indices (10_state.md R34). -/
theorem size_eq_ite {s : State} (hh : s.head < s.cfg.n) (ht : s.tail < s.cfg.n) :
    s.size = if s.tail ≤ s.head then s.head - s.tail else s.cfg.n + s.head - s.tail := by
  rw [State.size, mod_eq_ite_of_lt_two_mul (by omega)]
  split <;> split <;> omega

/-- The slot of an offset up to N, without the modulus. -/
theorem slotOf_eq_ite {s : State} (ht : s.tail < s.cfg.n) {i : Nat} (hi : i ≤ s.cfg.n) :
    s.slotOf i = if s.tail + i < s.cfg.n then s.tail + i else s.tail + i - s.cfg.n := by
  rw [State.slotOf, mod_eq_ite_of_lt_two_mul (by omega)]

theorem slotOf_zero {s : State} (ht : s.tail < s.cfg.n) : s.slotOf 0 = s.tail := Nat.mod_eq_of_lt ht

/-- The slot after the retained samples is HEAD. -/
theorem slotOf_size {s : State} (hh : s.head < s.cfg.n) (ht : s.tail < s.cfg.n) : s.slotOf s.size = s.head := by
  have hlt : s.size < s.cfg.n := State.size_lt (by omega)
  rw [slotOf_eq_ite ht hlt.le, size_eq_ite hh ht]
  split <;> split <;> omega

/-- Offsets below N have slots of their own. -/
theorem slotOf_injective {s : State} (ht : s.tail < s.cfg.n) {i j : Nat} (hi : i < s.cfg.n) (hj : j < s.cfg.n)
    (h : s.slotOf i = s.slotOf j) : i = j := by
  rw [slotOf_eq_ite ht hi.le, slotOf_eq_ite ht hj.le] at h
  split at h <;> split at h <;> omega

/-- No retained sample stands in HEAD's slot. -/
theorem slotOf_ne_head {s : State} (hh : s.head < s.cfg.n) (ht : s.tail < s.cfg.n) {i : Nat} (hi : i < s.size) :
    s.slotOf i ≠ s.head := by
  have hlt : s.size < s.cfg.n := State.size_lt (by omega)
  rw [← slotOf_size hh ht]
  exact fun h => hi.ne (slotOf_injective ht (hi.trans hlt) hlt h)

/-- SIZE is the one offset below N whose slot is HEAD. -/
theorem size_eq_of_slotOf_eq_head {s : State} (hh : s.head < s.cfg.n) (ht : s.tail < s.cfg.n) {k : Nat}
    (hk : k < s.cfg.n) (h : s.slotOf k = s.head) : s.size = k :=
  slotOf_injective ht (State.size_lt (by omega)) hk ((slotOf_size hh ht).trans h.symm)

/-- Moving the tail by `c` places moves every offset's slot by `c` places. -/
theorem slotOf_of_tail_advanced {s t : State} {c : Nat} (hcfg : t.cfg = s.cfg) (htail : t.tail = s.slotOf c) (i : Nat) :
    t.slotOf i = s.slotOf (c + i) := by
  rw [State.slotOf, State.slotOf, htail, hcfg, State.slotOf, Nat.mod_add_mod, Nat.add_assoc]

/-- The retained sample of an offset below SIZE. -/
theorem retained_getElem? {s : State} {i : Nat} (hi : i < s.size) :
    s.retained[i]? = some (s.slot (s.slotOf i)) := by
  simp [State.retained, hi]

@[simp] theorem length_retained (s : State) : s.retained.length = s.size := by simp [State.retained]

/-! ## A push -/

/-- How many samples a push drops: 1 when the buffer is full, else 0 (40_ring_buffer.md R133). -/
def State.evicted (s : State) : Nat := s.size + 2 - s.cfg.n

theorem evicted_eq_ite {s : State} (hn : 2 ≤ s.cfg.n) : s.evicted = if s.size = s.cfg.n - 1 then 1 else 0 := by
  have hlt : s.size < s.cfg.n := State.size_lt (by omega)
  unfold State.evicted
  split <;> omega

/-- HEAD meets TAIL exactly when the buffer is full (10_state.md R34). -/
theorem head_meets_tail_iff {s : State} (hh : s.head < s.cfg.n) (ht : s.tail < s.cfg.n) (hn : 2 ≤ s.cfg.n) :
    (s.head + 1) % s.cfg.n = s.tail ↔ s.size = s.cfg.n - 1 := by
  rw [mod_eq_ite_of_lt_two_mul (by omega), size_eq_ite hh ht]
  split <;> split <;> omega

/-- A push moves TAIL past the samples it drops. -/
theorem pushSample_tail_eq_slotOf {s : State} (hh : s.head < s.cfg.n) (ht : s.tail < s.cfg.n) (hn : 2 ≤ s.cfg.n)
    (v : Word) : (pushSample v s).tail = s.slotOf s.evicted := by
  rw [pushSample_tail, evicted_eq_ite hn]
  simp only [head_meets_tail_iff hh ht hn]
  split
  · rfl
  · exact (slotOf_zero ht).symm

theorem pushSample_slotOf {s : State} (hh : s.head < s.cfg.n) (ht : s.tail < s.cfg.n) (hn : 2 ≤ s.cfg.n)
    (v : Word) (i : Nat) : (pushSample v s).slotOf i = s.slotOf (s.evicted + i) :=
  slotOf_of_tail_advanced (pushSample_cfg v s) (pushSample_tail_eq_slotOf hh ht hn v) i

theorem pushSample_head_lt {s : State} (hn : 0 < s.cfg.n) (v : Word) : (pushSample v s).head < s.cfg.n :=
  Nat.mod_lt _ hn

theorem pushSample_tail_lt {s : State} (hh : s.head < s.cfg.n) (ht : s.tail < s.cfg.n) (hn : 2 ≤ s.cfg.n)
    (v : Word) : (pushSample v s).tail < s.cfg.n := by
  rw [pushSample_tail_eq_slotOf hh ht hn]
  exact State.slotOf_lt (by omega) _

/-- A push adds one sample and drops what does not fit. -/
theorem pushSample_size {s : State} (hh : s.head < s.cfg.n) (ht : s.tail < s.cfg.n) (hn : 2 ≤ s.cfg.n) (v : Word) :
    (pushSample v s).size = s.size + 1 - s.evicted := by
  have hlt : s.size < s.cfg.n := State.size_lt (by omega)
  have hsum : s.evicted + (s.size + 1 - s.evicted) = s.size + 1 := by unfold State.evicted; omega
  have hnext : s.slotOf (s.size + 1) = (s.head + 1) % s.cfg.n := by
    rw [← slotOf_size hh ht, State.slotOf, State.slotOf, Nat.mod_add_mod, Nat.add_assoc]
  refine size_eq_of_slotOf_eq_head (s := pushSample v s) (pushSample_head_lt (by omega) v)
    (pushSample_tail_lt hh ht hn v) ?_ ?_
  · simp only [pushSample_cfg, State.evicted]; omega
  · rw [pushSample_slotOf hh ht hn, hsum, hnext, pushSample_head]

/-- After a push the offset after the old samples holds the new one and the offsets below it what they held. -/
theorem pushSample_read_slotOf {s : State} (hh : s.head < s.cfg.n) (ht : s.tail < s.cfg.n) (v : Word) {i : Nat}
    (hi : i ≤ s.size) :
    (pushSample v s).buf.read (s.slotOf i) = if i = s.size then some v else s.buf.read (s.slotOf i) := by
  rw [pushSample_read]
  rcases eq_or_lt_of_le hi with rfl | hlt
  · simp [slotOf_size hh ht]
  · simp [slotOf_ne_head hh ht hlt, hlt.ne]

/-- PUSH in terms of the retained samples: the new one at the end, the dropped ones off the front
(40_ring_buffer.md R141). -/
theorem pushSample_retained {s : State} (hh : s.head < s.cfg.n) (ht : s.tail < s.cfg.n) (hn : 2 ≤ s.cfg.n)
    (v : Word) : (pushSample v s).retained = (s.retained ++ [v]).drop s.evicted := by
  refine List.ext_getElem? fun i => ?_
  by_cases hi : i < (pushSample v s).size
  · have hoff : s.evicted + i ≤ s.size := by rw [pushSample_size hh ht hn] at hi; omega
    rw [retained_getElem? hi, List.getElem?_drop, State.slot, pushSample_slotOf hh ht hn,
      pushSample_read_slotOf hh ht v hoff]
    rcases eq_or_lt_of_le hoff with heq | hlt
    · simp [heq]
    · rw [List.getElem?_append_left (by simpa using hlt), retained_getElem? hlt]
      simp [hlt.ne, State.slot]
  · rw [List.getElem?_eq_none (by simpa using hi), List.getElem?_eq_none]
    simp only [List.length_drop, List.length_append, length_retained, List.length_singleton]
    rw [← pushSample_size hh ht hn v]
    omega

/-! ## A move of the tail -/

@[simp] theorem slotOf_advanceTail (s : State) (c i : Nat) :
    ({ s with tail := s.slotOf c } : State).slotOf i = s.slotOf (c + i) :=
  slotOf_of_tail_advanced (s := s) (t := { s with tail := s.slotOf c }) rfl rfl i

/-- The tail moved past the `c` oldest samples leaves the rest (40_ring_buffer.md R138). -/
theorem size_advanceTail {s : State} (hh : s.head < s.cfg.n) (ht : s.tail < s.cfg.n) {c : Nat} (hc : c ≤ s.size) :
    ({ s with tail := s.slotOf c } : State).size = s.size - c := by
  have hlt : s.size < s.cfg.n := State.size_lt (by omega)
  have hslot : s.slotOf c < s.cfg.n := State.slotOf_lt (by omega) c
  refine size_eq_of_slotOf_eq_head (s := { s with tail := s.slotOf c }) hh hslot
    (lt_of_le_of_lt (Nat.sub_le _ _) hlt) ?_
  rw [slotOf_advanceTail, Nat.add_sub_cancel' hc, slotOf_size hh ht]

/-! ## Edge parity -/

theorem flip_flip (l : Level) : l.flip.flip = l := by cases l <;> rfl

/-- The slot after HEAD's is keyed to the other level, the wrap from N - 1 to 0 included, since N is even
(10_state.md R39). -/
theorem edgeLevelFor_succ {c : Config.Params} (hn : c.n % 2 = 0) (k : Nat) :
    edgeLevelFor c ((k + 1) % c.n) = (edgeLevelFor c k).flip := by
  have hmod : (k + 1) % c.n % 2 = (k + 1) % 2 := Nat.mod_mod_of_dvd _ (Nat.dvd_of_mod_eq_zero hn)
  unfold edgeLevelFor
  rcases Nat.mod_two_eq_zero_or_one k with hk | hk
  · rw [if_neg (by omega), if_pos hk]
  · rw [if_pos (by omega), if_neg (by omega), flip_flip]

end Sys2Proof.Machine
end

section
/-! What a step can do, said once: a command that is executed leaves one of the states of `CommandEffect`, a turn of
the consumer one of the states of `ConsumerEffect` (20_memory.md R65, R72). -/

namespace Sys2Proof.Machine

/-! ## Commands -/

/-- The next states a command can lead to, whichever it is: it only reports, or it has the one effect of its
operation. -/
inductive CommandEffect (s : State) : State → Prop
  | reports (r : Report) : CommandEffect s (s.reporting r)
  | starts (r : Report) (inactive : s.active = false) : CommandEffect s ((startCapture s).reporting r)
  | stops (r : Report) (idle : s.phase = .idle) : CommandEffect s ((stopCapture s).reporting r)
  | polls (r : Report) (active : s.active = true) : CommandEffect s ({ s with phase := .snap }.reporting r)
  | captures (l : Level) (now : Word) (r : Report) : CommandEffect s ((takeEdge l now s).reporting r)
  | pushes (v : Word) (r : Report) : CommandEffect s ((pushSample v s).reporting r)
  | commits (c : Nat) (r : Report) (range : c ≤ s.size) :
      CommandEffect s ({ s with tail := s.slotOf c }.reporting r)

/-- Whatever next state `k` answers with is an effect of a command on `s`. -/
def AnswersCommand (s : State) (k : StepResult) : Prop := ∀ t, k = .next t → CommandEffect s t

theorem AnswersCommand.next {s t : State} (h : CommandEffect s t) : AnswersCommand s (.next t) := by
  rintro _ ⟨⟩
  exact h

theorem AnswersCommand.fault (s : State) (f : Fault) : AnswersCommand s (.fault f) := by rintro _ ⟨⟩

theorem AnswersCommand.refuse (s : State) (c : RefusalCode) : AnswersCommand s (refuse c s) :=
  .next (.reports _)

theorem AnswersCommand.requireAgent {s : State} {k : StepResult} (a : Agent) (h : AnswersCommand s k) :
    AnswersCommand s (requireAgent a s k) := by
  rcases requireAgent_cases a s k with ⟨-, e⟩ | ⟨-, e⟩ <;> rw [e]
  · exact h
  · exact .refuse s _

theorem AnswersCommand.requireActive {s : State} {k : StepResult} (h : s.active = true → AnswersCommand s k) :
    AnswersCommand s (requireActive s k) := by
  rcases requireActive_cases s k with ⟨ha, e⟩ | ⟨-, e⟩ <;> rw [e]
  · exact h ha
  · exact .refuse s _

theorem AnswersCommand.requirePhaseIdle {s : State} {k : StepResult} (h : s.phase = .idle → AnswersCommand s k) :
    AnswersCommand s (requirePhaseIdle s k) := by
  rcases requirePhaseIdle_cases s k with ⟨hp, e⟩ | ⟨-, e⟩ <;> rw [e]
  · exact h hp
  · exact .refuse s _

theorem execInit_answers (s : State) : AnswersCommand s (execInit s) := by
  refine .requireAgent _ ?_
  split
  · exact .refuse s _
  · split
    · exact .next (.starts _ (by simp_all))
    · exact .next (.reports _)

theorem execTeardown_answers (s : State) : AnswersCommand s (execTeardown s) :=
  .requireAgent _ (.requireActive fun _ => .requirePhaseIdle fun hidle => .next (.stops _ hidle))

theorem execPoll_answers (s : State) : AnswersCommand s (execPoll s) :=
  .requireAgent _ (.requireActive fun hactive => .requirePhaseIdle fun _ => .next (.polls _ hactive))

theorem execEdge_answers (l : Level) (now : Word) (s : State) : AnswersCommand s (execEdge l now s) := by
  refine .requireAgent _ ?_
  split
  · exact .next (.captures l now _)
  · exact .next (.reports _)

theorem execPush_answers (v : Word) (s : State) : AnswersCommand s (execPush v s) :=
  .requireAgent _ (.requireActive fun _ => .next (.pushes v _))

theorem execPeek_answers (i : Byte) (s : State) : AnswersCommand s (execPeek i s) :=
  .requireAgent _ (.requireActive fun _ => .next (.reports _))

theorem execSnap_answers (s : State) : AnswersCommand s (execSnap s) :=
  .requireAgent _ (.requireActive fun _ => .next (.reports _))

theorem execCommit_answers (et c : Byte) (s : State) : AnswersCommand s (execCommit et c s) := by
  refine .requireAgent _ (.requireActive fun _ => ?_)
  rcases commitTail_cases et.toNat c.toNat s with ⟨-, e⟩ | ⟨-, -, e⟩ | ⟨-, hc, e⟩ <;> rw [e]
  · exact .next (.reports _)
  · exact .fault s _
  · exact .next (.commits _ _ hc)

/-- Every operation answers as one of the effects says. -/
theorem exec_answers (i : Instr) (s : State) : AnswersCommand s (exec i s) := by
  cases i with
  | init => exact execInit_answers s
  | teardown => exact execTeardown_answers s
  | poll => exact execPoll_answers s
  | edge l now => exact execEdge_answers l now s
  | push v => exact execPush_answers v s
  | peek i => exact execPeek_answers i s
  | snap => exact execSnap_answers s
  | commit et c => exact execCommit_answers et c s
  | valid w => exact .next (.reports _)
  | parity w => exact .next (.reports _)
  | isnum w => exact .next (.reports _)
  | height w => exact .next (.reports _)

/-- So does every command word, an illegal one by its refusal. -/
theorem runWord_answers (w : CmdWord) (s : State) : AnswersCommand s (runWord w s) := by
  rcases runWord_cases w s with ⟨i, -, e⟩ | ⟨_, -, e⟩ <;> rw [e]
  · exact exec_answers i s
  · exact .refuse s _

/-! ## The consumer's turn -/

/-- The next states a turn of the consumer can lead to, by PHASE (42_frame_decoder.md R214). -/
inductive ConsumerEffect (s : State) : State → Prop
  | waits (phase : s.phase = .idle) : ConsumerEffect s s
  | snaps (phase : s.phase = .snap) :
      ConsumerEffect s ({ s with et := s.tail, q := 0, phase := .sync }.reporting .nothing)
  | findsNoSync (phase : s.phase = .sync) (last : s.size ≤ s.q) :
      ConsumerEffect s ({ s with phase := .idle }.reporting (.result (.pollAbsent .noSync)))
  | findsMarker (phase : s.phase = .sync) (retained : s.q < s.size) :
      ConsumerEffect s ({ s with p := s.q, lvl := .high, budget := s.cfg.budgetInit, word := 0, nb := 0,
                                 phase := .bits }.reporting .nothing)
  | passesOver (phase : s.phase = .sync) (retained : s.q < s.size) :
      ConsumerEffect s ({ s with prev := s.slot (s.slotOf s.q), q := s.q + 1 }.reporting .nothing)
  | runsShort (phase : s.phase = .bits) (last : s.size ≤ s.p + 1) :
      ConsumerEffect s ({ s with p := s.p + 1, phase := .idle }.reporting (.result (.pollAbsent .short)))
  | emits (b : Nat) (w : Word) (k : Nat) (phase : s.phase = .bits) (retained : s.p + 1 < s.size)
      (loop : emitBits s.cfg s.lvl.flip Config.frameBits
        (s.budget + (s.slot (s.slotOf (s.p + 1))).toNat, s.word, s.nb) = (b, w, k)) :
      ConsumerEffect s ({ s with p := s.p + 1, lvl := s.lvl.flip, budget := b, word := w, nb := k,
                                 phase := if k = Config.frameBits then .commit else .bits }.reporting .nothing)
  | losesRace (phase : s.phase = .commit) (moved : s.tail ≠ s.et) :
      ConsumerEffect s ({ s with phase := .idle }.reporting (.result (.pollAbsent .race)))
  | commits (phase : s.phase = .commit) (unmoved : s.tail = s.et) (range : s.p ≤ s.size) :
      ConsumerEffect s ({ s with tail := s.slotOf s.p, phase := .idle }.reporting (.result (classify s.cfg s.word)))

theorem syncStep_effect {s t : State} (hp : s.phase = .sync) (h : syncStep s = .next t) : ConsumerEffect s t := by
  rcases syncStep_cases s with ⟨hq, e⟩ | ⟨hq, -, e⟩ | ⟨hq, -, e⟩ <;> rw [e] at h <;> cases h
  · exact .findsNoSync hp hq
  · exact .findsMarker hp hq
  · exact .passesOver hp hq

theorem bitsStep_effect {s t : State} (hp : s.phase = .bits) (h : bitsStep s = .next t) : ConsumerEffect s t := by
  rcases Nat.lt_or_ge (s.p + 1) s.size with hlt | hge
  · rcases hloop : emitBits s.cfg s.lvl.flip Config.frameBits
      (s.budget + (s.slot (s.slotOf (s.p + 1))).toNat, s.word, s.nb) with ⟨b, w, k⟩
    rw [bitsStep_consume hlt hloop] at h
    cases h
    exact .emits b w k hp hlt hloop
  · rw [bitsStep_short hge] at h
    cases h
    exact .runsShort hp hge

theorem commitStep_effect {s t : State} (hp : s.phase = .commit) (h : commitStep s = .next t) :
    ConsumerEffect s t := by
  rcases commitStep_cases s with ⟨hne, e⟩ | ⟨-, -, e⟩ | ⟨heq, hle, e⟩ <;> rw [e] at h <;> cases h
  · exact .losesRace hp hne
  · exact .commits hp heq hle

/-- Every turn of the consumer answers as one of the effects says. -/
theorem consumerStep_effect {s t : State} (h : consumerStep s = .next t) : ConsumerEffect s t := by
  rcases consumerStep_cases s with ⟨hp, e⟩ | ⟨hp, e⟩ | ⟨hp, e⟩ | ⟨hp, e⟩ | ⟨hp, e⟩ <;> rw [e] at h
  · cases h
    exact .waits hp
  · cases h
    exact .snaps hp
  · exact syncStep_effect hp h
  · exact bitsStep_effect hp h
  · exact commitStep_effect hp h

/-! ## Steps -/

/-- On the consumer's turn the step is the attempt's, its event taken. -/
theorem step_of_consumersTurn {s : State} (h : s.consumersTurn) :
    step s = consumerStep { s with inbox := s.inbox.tail } := by
  rcases step_cases s with ⟨hin, e⟩ | ⟨rest, hin, e⟩ | ⟨a, w, d, rest, hin, -⟩
  · rw [e, hin, List.tail_nil, ← hin]
  · rw [e, hin, List.tail_cons]
  · simp [State.consumersTurn, hin] at h

/-- A step is a turn of the consumer, or the effect of the command taken from the inbox. -/
theorem step_effect {s t : State} (h : step s = .next t) :
    (s.consumersTurn ∧ ConsumerEffect { s with inbox := s.inbox.tail } t) ∨
      ∃ a w d rest, s.inbox = .issue a w d :: rest ∧ CommandEffect (s.taking rest a d) t := by
  rcases step_cases s with ⟨hin, -⟩ | ⟨rest, hin, -⟩ | ⟨a, w, d, rest, hin, e⟩
  · have hturn : s.consumersTurn := .inl hin
    exact .inl ⟨hturn, consumerStep_effect (step_of_consumersTurn hturn ▸ h)⟩
  · have hturn : s.consumersTurn := .inr (by simp [hin])
    exact .inl ⟨hturn, consumerStep_effect (step_of_consumersTurn hturn ▸ h)⟩
  · exact .inr ⟨a, w, d, rest, hin, runWord_answers w _ t (e ▸ h)⟩

end Sys2Proof.Machine
end

section
/-! The invariant: it holds where a run begins, every update of a step keeps it, and so every step does
(10_state.md R34, R49, 42_frame_decoder.md R213, 60_exceptions.md R308). -/

namespace Sys2Proof.Machine

/-- What the emitting loop leaves when it has a turn for each bit still wanted: no larger budget, at most 32 bits, and a
budget below BP unless all 32 are there (42_frame_decoder.md R213). -/
theorem emitBits_bounds {c : Config.Params} {l : Level} {fuel b k b' k' : Nat} {w w' : Word}
    (hk : k ≤ Config.frameBits) (hfuel : Config.frameBits ≤ k + fuel)
    (h : emitBits c l fuel (b, w, k) = (b', w', k')) :
    b' ≤ b ∧ k' ≤ Config.frameBits ∧ (k' = Config.frameBits ∨ b' < c.bp) := by
  induction fuel generalizing b w k with
  | zero =>
    cases h
    exact ⟨le_rfl, hk, .inl (le_antisymm hk hfuel)⟩
  | succ fuel ih =>
    rw [emitBits_succ] at h
    split at h
    · obtain ⟨hle, hrest⟩ := ih (by omega) (by omega) h
      exact ⟨hle.trans (Nat.sub_le _ _), hrest⟩
    · cases h
      exact ⟨le_rfl, hk, by omega⟩

namespace State.Inv

theorem n_even {s : State} (h : s.Inv) : s.cfg.n % 2 = 0 := (wf_bounds h.cfg_wf).1

theorem two_le_n {s : State} (h : s.Inv) : 2 ≤ s.cfg.n := (wf_bounds h.cfg_wf).2.1

theorem bp_pos {s : State} (h : s.Inv) : 1 ≤ s.cfg.bp := (wf_bounds h.cfg_wf).2.2.2

theorem size_lt {s : State} (h : s.Inv) : s.size < s.cfg.n := State.size_lt (Nat.zero_lt_of_lt h.head_lt)

/-! ## What the invariant does not speak of -/

theorem reporting {s : State} (h : s.Inv) (r : Report) : (s.reporting r).Inv :=
  { h with cfg_wf := h.cfg_wf }

theorem taking {s : State} (h : s.Inv) (rest : List Event) (a : Agent) (d : Draw) : (s.taking rest a d).Inv :=
  { h with cfg_wf := h.cfg_wf }

theorem withInbox {s : State} (h : s.Inv) (es : List Event) : ({ s with inbox := es } : State).Inv :=
  { h with cfg_wf := h.cfg_wf }

theorem withCapture {s : State} (h : s.Inv) (i : Bool) (us : Word) :
    ({ s with idle := i, lastUs := us } : State).Inv :=
  { h with cfg_wf := h.cfg_wf }

/-! ## Commands -/

theorem start {s : State} (h : s.Inv) : (startCapture s).Inv where
  cfg_wf := h.cfg_wf
  buf_wf := Memory.wf_nil
  buf_slots := by simp
  head_lt := Nat.zero_lt_of_lt h.head_lt
  tail_lt := Nat.zero_lt_of_lt h.tail_lt
  window_written := by simp [State.size]
  interrupt_enabled := ⟨rfl, rfl⟩
  poll_active := by simp
  et_lt := by simp
  q_lt := by simp
  p_lt := by simp
  bits_budget := by simp
  commit_budget := by simp

theorem stop {s : State} (h : s.Inv) (hidle : s.phase = .idle) : (stopCapture s).Inv :=
  { h with
    buf_wf := Memory.wf_nil
    buf_slots := by simp
    head_lt := Nat.mod_lt _ (Nat.zero_lt_of_lt h.head_lt)
    tail_lt := Nat.mod_lt _ (Nat.zero_lt_of_lt h.tail_lt)
    window_written := by simp
    interrupt_enabled := ⟨rfl, rfl⟩
    poll_active := by simp [hidle] }

theorem poll {s : State} (h : s.Inv) (hactive : s.active = true) : ({ s with phase := .snap } : State).Inv :=
  { h with
    poll_active := fun _ => hactive
    et_lt := by simp
    q_lt := by simp
    p_lt := by simp
    bits_budget := by simp
    commit_budget := by simp }

/-- After a push every readable slot is the new sample's or was readable before (10_state.md R49). -/
theorem push_window {s : State} (h : s.Inv) (v : Word) (hactive : s.active = true) {i : Nat}
    (hi : i < (pushSample v s).size) :
    ((pushSample v s).buf.read ((pushSample v s).slotOf i)).isSome = true := by
  rw [pushSample_size h.head_lt h.tail_lt h.two_le_n] at hi
  rw [pushSample_slotOf h.head_lt h.tail_lt h.two_le_n, pushSample_read_slotOf h.head_lt h.tail_lt v (by omega)]
  split
  · rfl
  · exact h.window_written hactive _ (by omega)

theorem push {s : State} (h : s.Inv) (v : Word) : (pushSample v s).Inv :=
  { h with
    buf_wf := Memory.write_wf _ _ h.buf_wf
    buf_slots := fun c hc => by
      rcases Memory.mem_write hc with rfl | hc
      · exact h.head_lt
      · exact h.buf_slots c hc
    head_lt := pushSample_head_lt (Nat.zero_lt_of_lt h.head_lt) v
    tail_lt := pushSample_tail_lt h.head_lt h.tail_lt h.two_le_n v
    window_written := fun hactive _ hi => h.push_window v hactive hi }

theorem edge {s : State} (h : s.Inv) (l : Level) (now : Word) : (takeEdge l now s).Inv := by
  rcases takeEdge_cases l now s with ⟨-, e⟩ | ⟨-, e⟩ <;> rw [e]
  · exact (h.push _).withCapture _ _
  · exact h.withCapture _ s.lastUs

theorem advanceTail {s : State} (h : s.Inv) {c : Nat} (hc : c ≤ s.size) :
    ({ s with tail := s.slotOf c } : State).Inv :=
  { h with
    tail_lt := State.slotOf_lt (Nat.zero_lt_of_lt h.head_lt) c
    window_written := fun hactive i hi => by
      rw [size_advanceTail h.head_lt h.tail_lt hc] at hi
      rw [slotOf_advanceTail]
      exact h.window_written hactive _ (by omega) }

/-- Every effect of a command keeps the invariant. -/
theorem of_commandEffect {s t : State} (h : s.Inv) (effect : CommandEffect s t) : t.Inv := by
  cases effect with
  | reports r => exact h.reporting r
  | starts r _ => exact h.start.reporting r
  | stops r hidle => exact (h.stop hidle).reporting r
  | polls r hactive => exact (h.poll hactive).reporting r
  | captures l now r => exact (h.edge l now).reporting r
  | pushes v r => exact (h.push v).reporting r
  | commits c r hc => exact (h.advanceTail hc).reporting r

/-! ## The consumer's turn -/

theorem endPollAt {s : State} (h : s.Inv) (p : Nat) : ({ s with p := p, phase := .idle } : State).Inv :=
  { h with
    poll_active := by simp
    et_lt := by simp
    q_lt := by simp
    p_lt := by simp
    bits_budget := by simp
    commit_budget := by simp }

theorem endPoll {s : State} (h : s.Inv) : ({ s with phase := .idle } : State).Inv := h.endPollAt s.p

theorem takeSnapshot {s : State} (h : s.Inv) (hp : s.phase = .snap) :
    ({ s with et := s.tail, q := 0, phase := .sync } : State).Inv :=
  { h with
    poll_active := fun _ => h.poll_active (by simp [hp])
    et_lt := fun _ => h.tail_lt
    q_lt := fun _ => Nat.zero_lt_of_lt h.head_lt
    p_lt := by simp
    bits_budget := by simp
    commit_budget := by simp }

theorem findMarker {s : State} (h : s.Inv) (hp : s.phase = .sync) (hq : s.q < s.size) :
    ({ s with p := s.q, lvl := .high, budget := s.cfg.budgetInit, word := 0, nb := 0,
              phase := .bits } : State).Inv :=
  { h with
    poll_active := fun _ => h.poll_active (by simp [hp])
    et_lt := fun _ => h.et_lt (.inl hp)
    q_lt := by simp
    p_lt := fun _ => Nat.lt_of_le_of_lt hq h.size_lt
    bits_budget := fun _ => ⟨Nat.div_lt_self h.bp_pos (by decide), Nat.zero_lt_succ _⟩
    commit_budget := by simp }

theorem passOver {s : State} (h : s.Inv) (hq : s.q < s.size) (v : Word) :
    ({ s with prev := v, q := s.q + 1 } : State).Inv :=
  { h with
    q_lt := fun _ => Nat.lt_of_le_of_lt hq h.size_lt }

theorem emit {s : State} (h : s.Inv) (hp : s.phase = .bits) (hsize : s.p + 1 < s.size) {l : Level} {v : Word}
    {b : Nat} {w : Word} {k : Nat}
    (loop : emitBits s.cfg l Config.frameBits (s.budget + v.toNat, s.word, s.nb) = (b, w, k)) :
    ({ s with p := s.p + 1, lvl := l, budget := b, word := w, nb := k,
              phase := if k = Config.frameBits then .commit else .bits } : State).Inv := by
  have ⟨hbudget, hnb⟩ := h.bits_budget hp
  obtain ⟨hle, hkle, hdone⟩ := emitBits_bounds hnb.le (Nat.le_add_left _ _) loop
  have hactive : s.active = true := h.poll_active (by simp [hp])
  have het : s.et < s.cfg.n := h.et_lt (.inr (.inl hp))
  have hp_lt : s.p + 1 + 1 < s.cfg.n := Nat.lt_of_le_of_lt hsize h.size_lt
  split
  · exact { h with
      poll_active := fun _ => hactive
      et_lt := fun _ => het
      q_lt := by simp
      p_lt := fun _ => hp_lt
      bits_budget := by simp
      commit_budget := fun _ => ⟨by have := v.isLt; simp only; omega, ‹_›⟩ }
  · exact { h with
      poll_active := fun _ => hactive
      et_lt := fun _ => het
      q_lt := by simp
      p_lt := fun _ => hp_lt
      bits_budget := fun _ => ⟨hdone.resolve_left ‹_›, lt_of_le_of_ne hkle ‹_›⟩
      commit_budget := by simp }

/-- Every turn of the consumer keeps the invariant. -/
theorem of_consumerEffect {s t : State} (h : s.Inv) (effect : ConsumerEffect s t) : t.Inv := by
  cases effect with
  | waits => exact h
  | snaps hp => exact (h.takeSnapshot hp).reporting _
  | findsNoSync => exact h.endPoll.reporting _
  | findsMarker hp hq => exact (h.findMarker hp hq).reporting _
  | passesOver _ hq => exact (h.passOver hq _).reporting _
  | runsShort => exact (h.endPollAt _).reporting _
  | emits b w k hp hsize loop => exact (h.emit hp hsize loop).reporting _
  | losesRace => exact h.endPoll.reporting _
  | commits _ _ hle => exact (h.advanceTail hle).endPoll.reporting _

/-- Every step keeps the invariant. -/
theorem of_step {s t : State} (h : s.Inv) (hstep : step s = .next t) : t.Inv := by
  rcases step_effect hstep with ⟨-, effect⟩ | ⟨a, w, d, rest, -, effect⟩
  · exact (h.withInbox _).of_consumerEffect effect
  · exact (h.taking rest a d).of_commandEffect effect

end State.Inv

/-- Where a run begins nothing is retained, capture is inactive and no POLL is in progress. -/
theorem initial_inv {c : Config.Params} (hc : c.wf = true) : (State.initial c).Inv where
  cfg_wf := hc
  buf_wf := Memory.wf_nil
  buf_slots := by simp [State.initial]
  head_lt := by have := wf_bounds hc; simp only [State.initial]; omega
  tail_lt := by have := wf_bounds hc; simp only [State.initial]; omega
  window_written := by simp [State.initial]
  interrupt_enabled := ⟨rfl, rfl⟩
  poll_active := by simp [State.initial]
  et_lt := by simp [State.initial]
  q_lt := by simp [State.initial]
  p_lt := by simp [State.initial]
  bits_budget := by simp [State.initial]
  commit_budget := by simp [State.initial]

end Sys2Proof.Machine
end

section
/-! Settled: what every step keeps, where a run begins, and what INIT, TEARDOWN, EDGE, PUSH, PEEK and the consumer's
turn do to the state (10_state.md). -/

namespace Sys2Proof.Machine

/-! ## The invariant and the parameters -/

/-- Settles O11: a step is a turn of the consumer or a command's effect, and each of them keeps the invariant. -/
theorem stepKeepsInvariant : Obligations.StepKeepsInvariant := by
  unfold Obligations.StepKeepsInvariant
  intro s t h hstep
  exact h.of_step hstep

/-- Settles O10. The state at reset is the one of the test configuration, which is well formed. -/
theorem runBeginsInInvariant : Obligations.RunBeginsInInvariant := by
  unfold Obligations.RunBeginsInInvariant
  exact ⟨initial_inv (by decide), fun _ hc => initial_inv hc⟩

/-- Settles O9: both are fields of the state a run begins in, and reset is one such state. -/
theorem runBeginsInactive : Obligations.RunBeginsInactive := by
  unfold Obligations.RunBeginsInactive
  intro c
  exact ⟨rfl, rfl, rfl, rfl⟩

@[simp] theorem takeEdge_cfg (l : Level) (now : Word) (s : State) : (takeEdge l now s).cfg = s.cfg := by
  rcases takeEdge_cases l now s with ⟨-, e⟩ | ⟨-, e⟩ <;> simp [e]

theorem CommandEffect.cfg_eq {s t : State} (effect : CommandEffect s t) : t.cfg = s.cfg := by
  cases effect with
  | reports | starts | stops | polls | pushes | commits => rfl
  | captures l now r => exact takeEdge_cfg l now s

theorem ConsumerEffect.cfg_eq {s t : State} (effect : ConsumerEffect s t) : t.cfg = s.cfg := by
  cases effect <;> rfl

/-- Settles O12: neither a turn of the consumer nor a command has an effect on the parameters. -/
theorem parametersNeverChange : Obligations.ParametersNeverChange := by
  unfold Obligations.ParametersNeverChange
  intro s t hstep
  rcases step_effect hstep with ⟨-, effect⟩ | ⟨a, w, d, rest, -, effect⟩
  · exact effect.cfg_eq
  · exact effect.cfg_eq

/-! ## INIT and TEARDOWN -/

/-- INIT by the host while capture is inactive, its outcome drawn OK (44_interface.md R280). -/
theorem exec_init_of_ok {s : State} (hagent : s.agent = .host) (hactive : s.active = false)
    (hok : s.draw.initOk = true) : exec .init s = complete .initOk (startCapture s) := by
  simp [exec, execInit, requireAgent_of_eq hagent, hactive, hok]

/-- Settles O17: each clause is a field of the state that capture starts in, whose SIZE is N mod N. -/
theorem initStartsCapture : Obligations.InitStartsCapture := by
  unfold Obligations.InitStartsCapture
  intro s hagent hactive hok
  refine ⟨_, exec_init_of_ok hagent hactive hok, rfl, rfl, rfl, rfl, rfl, rfl, rfl, fun _ => rfl, fun _ => ?_, rfl, rfl,
    rfl, rfl, rfl, rfl, rfl⟩
  simp [State.size]

/-- TEARDOWN by the host while capture is active and no POLL is in progress (44_interface.md R284). -/
theorem exec_teardown_of_idle {s : State} (hagent : s.agent = .host) (hactive : s.active = true)
    (hidle : s.phase = .idle) : exec .teardown s = complete .noValue (stopCapture s) := by
  simp only [exec, execTeardown, requireAgent_of_eq hagent, requireActive_of_eq hactive, requirePhaseIdle_of_eq hidle]

/-- Settles O19: the indices are the drawn ones modulo N. -/
theorem teardownReleasesCapture : Obligations.TeardownReleasesCapture := by
  unfold Obligations.TeardownReleasesCapture
  intro s hagent hactive hidle
  refine ⟨_, exec_teardown_of_idle hagent hactive hidle, rfl, rfl, hidle, rfl, rfl, rfl, fun _ => rfl, rfl, rfl,
    fun hn => ⟨Nat.mod_lt _ hn, Nat.mod_lt _ hn⟩, ?_, rfl, rfl, rfl, rfl⟩
  rintro h l hh hl rfl rfl
  exact ⟨Nat.mod_eq_of_lt hh, Nat.mod_eq_of_lt hl⟩

/-! ## EDGE -/

/-- EDGE takes the edge, or only reports: a refusal, or the no-op of R177. -/
theorem exec_edge_cases (l : Level) (now : Word) (s : State) :
    exec (.edge l now) s = complete .noValue (takeEdge l now s) ∨
      ∃ r, exec (.edge l now) s = .next (s.reporting r) := by
  simp only [exec, execEdge, requireAgent]
  split_ifs
  · exact .inl rfl
  · exact .inr ⟨_, rfl⟩
  · exact .inr ⟨_, rfl⟩

/-- An EDGE that moves HEAD was accepted: its level is the one keyed to HEAD, which advances by one slot
(41_edge_capture.md R172, R175). -/
theorem exec_edge_accepted {s t : State} {l : Level} {now : Word} (h : exec (.edge l now) s = .next t)
    (hmoved : t.head ≠ s.head) :
    l = edgeLevelFor s.cfg s.head ∧ t.head = (s.head + 1) % s.cfg.n ∧ t.cfg = s.cfg := by
  rcases exec_edge_cases l now s with e | ⟨r, e⟩ <;> rw [e] at h
  · rcases takeEdge_cases l now s with ⟨hl, e⟩ | ⟨-, e⟩ <;> rw [e] at h <;> cases h
    · exact ⟨hl, rfl, rfl⟩
    · exact absurd rfl hmoved
  · cases h
    exact absurd rfl hmoved

/-- Settles O25: the second accepted edge is keyed to the slot after the first one's, and N is even. -/
theorem acceptedLevelsAlternate : Obligations.AcceptedLevelsAlternate := by
  unfold Obligations.AcceptedLevelsAlternate
  intro s t lvl lvl' now now' hinv _ _ hedge hmoved u hedge' hmoved'
  obtain ⟨hlvl, hhead, hcfg⟩ := exec_edge_accepted hedge hmoved
  obtain ⟨hlvl', -, -⟩ := exec_edge_accepted hedge' hmoved'
  rw [hlvl', hcfg, hhead, edgeLevelFor_succ hinv.n_even, hlvl]

/-! ## PUSH and PEEK -/

/-- PUSH by the producer while capture is active (40_ring_buffer.md R132). -/
theorem exec_push_of_active {s : State} (hagent : s.agent = .producer) (hactive : s.active = true) (v : Word) :
    exec (.push v) s = complete .noValue (pushSample v s) := by
  simp only [exec, execPush, requireAgent_of_eq hagent, requireActive_of_eq hactive]

@[simp] theorem retained_reporting (s : State) (r : Report) : (s.reporting r).retained = s.retained := rfl

/-- Settles O28: the number of samples a push drops is 1 when the buffer is full and 0 otherwise. -/
theorem pushAppendsToRetained : Obligations.PushAppendsToRetained := by
  unfold Obligations.PushAppendsToRetained
  intro s t v hinv hagent hactive hpush
  rw [exec_push_of_active hagent hactive, complete_eq] at hpush
  cases hpush
  have hn := hinv.two_le_n
  rw [retained_reporting, pushSample_retained hinv.head_lt hinv.tail_lt hn, evicted_eq_ite hn]
  split
  · have hne : s.retained ≠ [] := List.ne_nil_of_length_pos (by rw [length_retained]; omega)
    rw [List.drop_one, List.tail_append_of_ne_nil hne]
  · rw [List.drop_zero]

/-- PEEK answers from an active buffer, or is refused. -/
theorem exec_peek_cases (i : Byte) (s : State) :
    (s.active = true ∧ exec (.peek i) s = complete (.sample (peekAt i.toNat s)) s) ∨
      ∃ c, exec (.peek i) s = refuse c s := by
  simp only [exec, execPeek, requireAgent, requireActive]
  split_ifs with _ hactive
  · exact .inl ⟨hactive, rfl⟩
  · exact .inr ⟨_, rfl⟩
  · exact .inr ⟨_, rfl⟩

/-- A PEEK that answers a sample found capture active, the offset retained, and the sample in the offset's slot
(40_ring_buffer.md R135). -/
theorem exec_peek_sample {s t : State} {i : Byte} {v : Word} (h : exec (.peek i) s = .next t)
    (hreport : t.report = .result (.sample (some v))) :
    s.active = true ∧ i.toNat < s.size ∧ s.slot (s.slotOf i.toNat) = v := by
  rcases exec_peek_cases i s with ⟨hactive, e⟩ | ⟨c, e⟩ <;> rw [e] at h
  · rcases peekAt_cases i.toNat s with ⟨-, e⟩ | ⟨hi, e⟩ <;> rw [e] at h <;> cases h <;> cases hreport
    exact ⟨hactive, hi, rfl⟩
  · cases h
    cases hreport

/-- A readable slot's content is what was pushed into it since INIT (10_state.md R49). -/
theorem State.Inv.read_slotOf {s : State} (h : s.Inv) (hactive : s.active = true) {i : Nat} (hi : i < s.size) :
    s.buf.read (s.slotOf i) = some (s.slot (s.slotOf i)) := by
  obtain ⟨v, hv⟩ := Option.isSome_iff_exists.1 (h.window_written hactive i hi)
  rw [State.slot, hv, Option.getD_some]

/-- Settles O31: the offset is retained, and the invariant has every retained slot written. -/
theorem peekReturnsOnlyPushedSamples : Obligations.PeekReturnsOnlyPushedSamples := by
  unfold Obligations.PeekReturnsOnlyPushedSamples
  intro s t i v hinv hpeek hreport
  obtain ⟨hactive, hi, rfl⟩ := exec_peek_sample hpeek hreport
  exact ⟨hinv.read_slotOf hactive hi, retained_getElem? hi⟩

/-! ## The consumer's turn -/

/-- A turn of the consumer leaves HEAD, BUF and the capture state alone (10_state.md R51). -/
theorem ConsumerEffect.frame {s t : State} (effect : ConsumerEffect s t) :
    t.head = s.head ∧ t.buf = s.buf ∧ SameCapture s t := by
  cases effect <;> exact ⟨rfl, rfl, rfl, rfl, rfl, rfl⟩

/-- A turn of the consumer moves TAIL only by the attempt's successful commit, which ends the POLL with its
classification (42_frame_decoder.md R222). -/
theorem ConsumerEffect.of_tail_ne {s t : State} (effect : ConsumerEffect s t) (hmoved : t.tail ≠ s.tail) :
    s.phase = .commit ∧ s.tail = s.et ∧ t.phase = .idle ∧ t.report = .result (classify s.cfg s.word) := by
  cases effect with
  | commits hp heq => exact ⟨hp, heq, rfl, rfl⟩
  | waits | snaps | findsNoSync | findsMarker | passesOver | runsShort | emits | losesRace => exact absurd rfl hmoved

/-- Settles O49, by what each turn of the consumer can lead to. -/
theorem consumerWritesOnlyTailByCommit : Obligations.ConsumerWritesOnlyTailByCommit := by
  unfold Obligations.ConsumerWritesOnlyTailByCommit
  intro s t hturn hstep
  have effect := consumerStep_effect (step_of_consumersTurn hturn ▸ hstep)
  obtain ⟨hhead, hbuf, hcapture⟩ := effect.frame
  exact ⟨hhead, fun k => by rw [hbuf], hcapture, effect.of_tail_ne⟩

/-- The marker test in the terms of 42_frame_decoder.md R205. -/
theorem syncMatch_iff (s : State) (v : Word) :
    syncMatch s v = true ↔ 1 ≤ s.q ∧ intervalLevel s.cfg ((s.et + s.q - 1) % s.cfg.n) = .low
      ∧ 40 * s.cfg.bp < s.prev.toNat ∧ v.toNat < 2 * s.cfg.bp := by
  simp only [syncMatch, isSyncLow, isSyncHigh, Bool.and_eq_true, decide_eq_true_eq, beq_iff_eq, and_assoc]
  exact Iff.rfl

/-- On the consumer's turn in PH_SYNC the step is the search's, its event taken. -/
theorem step_of_phase_sync {s : State} (hturn : s.consumersTurn) (hphase : s.phase = .sync) :
    step s = syncStep { s with inbox := s.inbox.tail } := by
  simp only [step_of_consumersTurn hturn, consumerStep, hphase]

/-- Settles O46, by the three outcomes of the search's step. -/
theorem syncStepSearchesMarker : Obligations.SyncStepSearchesMarker := by
  unfold Obligations.SyncStepSearchesMarker
  intro s hturn hphase
  rw [step_of_phase_sync hturn hphase]
  rcases syncStep_cases { s with inbox := s.inbox.tail } with ⟨hq, e⟩ | ⟨hq, hm, e⟩ | ⟨hq, hm, e⟩ <;>
    refine e.trans (congrArg Host.Outcome.next (Eq.symm ?_))
  · exact if_pos hq
  · exact (if_neg (Nat.not_le.2 hq)).trans (if_pos ((syncMatch_iff _ _).1 hm))
  · exact (if_neg (Nat.not_le.2 hq)).trans (if_neg (mt (syncMatch_iff _ _).2 (Bool.eq_false_iff.1 hm)))

/-- On the consumer's turn in PH_COMMIT the step is the commit's, its event taken. -/
theorem step_of_phase_commit {s : State} (hturn : s.consumersTurn) (hphase : s.phase = .commit) :
    step s = commitStep { s with inbox := s.inbox.tail } := by
  simp only [step_of_consumersTurn hturn, consumerStep, hphase]

/-- Settles O48, by the three outcomes of the commit's step. -/
theorem commitStepEndsAttempt : Obligations.CommitStepEndsAttempt := by
  unfold Obligations.CommitStepEndsAttempt
  intro s hturn hphase
  rw [step_of_phase_commit hturn hphase]
  rcases commitStep_cases { s with inbox := s.inbox.tail } with ⟨hne, e⟩ | ⟨heq, hlt, e⟩ | ⟨heq, hle, e⟩ <;> rw [e]
  · exact ⟨fun _ => rfl, fun h => absurd h hne, fun h => absurd h hne⟩
  · exact ⟨fun h => absurd heq h, fun _ h => absurd hlt (Nat.not_lt.2 h), fun _ _ => rfl⟩
  · refine ⟨fun h => absurd heq h, fun _ _ => ?_, fun _ h => absurd hle (Nat.not_le.2 h)⟩
    rw [← heq]
    rfl

end Sys2Proof.Machine
end

section
/-! What PEEK and COMMIT answer, what a move of the tail leaves retained, and where a run of PUSH commands leaves the
ring buffer (20_memory.md R61, R73, R77). -/

namespace Sys2Proof.Machine

/-! ## PEEK -/

/-- PEEK by the consumer while capture is active (40_ring_buffer.md R135). -/
theorem exec_peek_of_active {s : State} (hagent : s.agent = .consumer) (hactive : s.active = true) (i : Byte) :
    exec (.peek i) s = complete (.sample (peekAt i.toNat s)) s := by
  simp only [exec, execPeek, requireAgent_of_eq hagent, requireActive_of_eq hactive]

/-! ## COMMIT -/

/-- COMMIT makes its atomic access, or is refused (40_ring_buffer.md R138). -/
theorem exec_commit_cases (et c : Byte) (s : State) :
    (s.tail ≠ et.toNat ∧ exec (.commit et c) s = complete (.committed false) s)
      ∨ (s.tail = et.toNat ∧ s.size < c.toNat
          ∧ exec (.commit et c) s = .fault (.commitRange et.toNat c.toNat s.size))
      ∨ (s.tail = et.toNat ∧ c.toNat ≤ s.size
          ∧ exec (.commit et c) s = complete (.committed true) { s with tail := s.slotOf c.toNat })
      ∨ ∃ r, exec (.commit et c) s = refuse r s := by
  simp only [exec, execCommit, requireAgent, requireActive]
  split_ifs
  · rcases commitTail_cases et.toNat c.toNat s with ⟨hne, e⟩ | ⟨heq, hlt, e⟩ | ⟨heq, hle, e⟩ <;> rw [e]
    · exact .inl ⟨hne, rfl⟩
    · exact .inr (.inl ⟨heq, hlt, rfl⟩)
    · exact .inr (.inr (.inl ⟨heq, hle, rfl⟩))
  · exact .inr (.inr (.inr ⟨_, rfl⟩))
  · exact .inr (.inr (.inr ⟨_, rfl⟩))

/-- A COMMIT that reports success moved TAIL past `c` retained samples and did nothing else. -/
theorem exec_commit_succeeded {s t : State} {et c : Byte} (h : exec (.commit et c) s = .next t)
    (hreport : t.report = .result (.committed true)) :
    c.toNat ≤ s.size ∧ t = ({ s with tail := s.slotOf c.toNat }.reporting (.result (.committed true)) : State) := by
  rcases exec_commit_cases et c s with ⟨-, e⟩ | ⟨-, -, e⟩ | ⟨-, hle, e⟩ | ⟨r, e⟩ <;> rw [e] at h <;> cases h
  · cases hreport
  · exact ⟨hle, rfl⟩
  · cases hreport

/-- The tail moved past the `c` oldest retained samples leaves the others, in their order (20_memory.md R73). -/
theorem retained_advanceTail {s : State} (hh : s.head < s.cfg.n) (ht : s.tail < s.cfg.n) {c : Nat} (hc : c ≤ s.size) :
    ({ s with tail := s.slotOf c } : State).retained = s.retained.drop c := by
  refine List.ext_getElem? fun i => ?_
  by_cases hi : i < ({ s with tail := s.slotOf c } : State).size
  · have hci : c + i < s.size := by rw [size_advanceTail hh ht hc] at hi; omega
    rw [retained_getElem? hi, List.getElem?_drop, retained_getElem? hci, slotOf_advanceTail]
    rfl
  · rw [List.getElem?_eq_none (by simpa using hi), List.getElem?_eq_none]
    rw [List.length_drop, length_retained, ← size_advanceTail hh ht hc]
    omega

/-! ## Runs, of any core -/

section Runs

variable {M : Host.Core} {s t : M.State}

theorem run_of_next (h : M.step s = .next t) (k : Nat) : M.run (k + 1) s = M.run k t := by
  simp only [Host.Core.run, h]

theorem run_of_fault {f : M.Fault} (h : M.step s = .fault f) (k : Nat) : M.run (k + 1) s = .fault f := by
  simp only [Host.Core.run, h]

theorem run_of_refused {r : M.Refusal} (h : M.step s = .refused r) (k : Nat) : M.run (k + 1) s = .refused r := by
  simp only [Host.Core.run, h]

theorem run_one (s : M.State) : M.run 1 s = M.step s := by
  rcases h : M.step s with t | f | r
  · exact run_of_next h 0
  · exact run_of_fault h 0
  · exact run_of_refused h 0

/-- A run of `j + k` steps is one of `k` steps from where the first `j` lead. -/
theorem run_add {j : Nat} (h : M.run j s = .next t) (k : Nat) : M.run (j + k) s = M.run k t := by
  induction j generalizing s with
  | zero =>
    cases h
    rw [Nat.zero_add]
  | succ j ih =>
    rcases hstep : M.step s with u | f | r
    · rw [run_of_next hstep] at h
      rw [Nat.succ_add, run_of_next hstep, ih h]
    · rw [run_of_fault hstep] at h
      cases h
    · rw [run_of_refused hstep] at h
      cases h

end Runs

/-! ## Runs, of LDCORE -/

theorem runSteps_of_next {s t : State} (h : step s = .next t) (k : Nat) : runSteps (k + 1) s = runSteps k t :=
  run_of_next (M := Sys2Proof.core) h k

theorem runSteps_one (s : State) : runSteps 1 s = step s := run_one (M := Sys2Proof.core) s

theorem runSteps_add {s t : State} {j : Nat} (h : runSteps j s = .next t) (k : Nat) :
    runSteps (j + k) s = runSteps k t :=
  run_add (M := Sys2Proof.core) h k

/-! ## The word of a PUSH -/

/-- The fields of a packed word are the ones packed, the reserved bits 0 (30_encoding.md R111, R115). -/
theorem splitWord_packWord {op l : Nat} (a b : Byte) (v : Word) (hop : op < 16) (hl : l < 2) :
    splitWord (packWord op l a b v) = ⟨BitVec.ofNat 4 op, BitVec.ofNat 1 l, 0, a, b, 0, v⟩ := by
  have hword := packWord_toNat op l a b v hop hl
  have ha : a.toNat < 256 := a.isLt
  have hb : b.toNat < 256 := b.isLt
  generalize packWord op l a b v = w at hword ⊢
  have h_op : (splitWord w).op = BitVec.ofNat 4 op :=
    BitVec.eq_of_toNat_eq (by rw [splitWord_op_toNat, BitVec.toNat_ofNat]; omega)
  have h_l : (splitWord w).l = BitVec.ofNat 1 l :=
    BitVec.eq_of_toNat_eq (by rw [splitWord_l_toNat, BitVec.toNat_ofNat]; omega)
  have h_low : (splitWord w).reservedLow = 0#3 :=
    BitVec.eq_of_toNat_eq (by rw [splitWord_reservedLow_toNat, BitVec.toNat_ofNat]; omega)
  have h_a : (splitWord w).a = a := BitVec.eq_of_toNat_eq (by rw [splitWord_a_toNat]; omega)
  have h_b : (splitWord w).b = b := BitVec.eq_of_toNat_eq (by rw [splitWord_b_toNat]; omega)
  have h_high : (splitWord w).reservedHigh = 0#8 :=
    BitVec.eq_of_toNat_eq (by rw [splitWord_reservedHigh_toNat, BitVec.toNat_ofNat]; omega)
  have h_v : (splitWord w).v = v := BitVec.eq_of_toNat_eq (by rw [splitWord_v_toNat]; omega)
  calc splitWord w = ⟨(splitWord w).op, (splitWord w).l, (splitWord w).reservedLow, (splitWord w).a, (splitWord w).b,
        (splitWord w).reservedHigh, (splitWord w).v⟩ := rfl
    _ = _ := by rw [h_op, h_l, h_low, h_a, h_b, h_high, h_v]; rfl

theorem splitWord_encode_push (v : Word) : splitWord (encode (.push v)) = ⟨5, 0, 0, 0, 0, 0, v⟩ := by
  have hword : encode (.push v) = packWord 5 0 0 0 v := rfl
  rw [hword, splitWord_packWord 0 0 v (by decide) (by decide)]
  rfl

theorem decode_of_push_fields {w : CmdWord} {v : Word} (h : splitWord w = ⟨5, 0, 0, 0, 0, 0, v⟩) :
    decode w = .ok (.push v) := by
  simp [decode, h, instrOfFields, usesL, usesA, usesB, usesV]

/-- The word of PUSH decodes to it, whatever the sample (30_encoding.md R114). -/
theorem decode_encode_push (v : Word) : decode (encode (.push v)) = .ok (.push v) :=
  decode_of_push_fields (splitWord_encode_push v)

/-! ## A run of pushes -/

/-- A command whose word decodes runs as the operation it decodes to, its event taken (30_encoding.md R110). -/
theorem step_of_command {s : State} {a : Agent} {w : CmdWord} {d : Draw} {rest : List Event} {i : Instr}
    (hin : s.inbox = .issue a w d :: rest) (hdecode : decode w = .ok i) : step s = exec i (s.taking rest a d) := by
  simp only [step, takeEvent, hin, runWord, hdecode]

/-- Where a PUSH command of the producer leaves the machine. -/
def State.afterPush (d : Draw) (s : State) (v : Word) : State :=
  (pushSample v (s.taking s.inbox.tail .producer d)).reporting (.result .noValue)

/-- Where PUSH commands of the producer in a row leave it. -/
def State.afterPushes (d : Draw) (s : State) (vs : List Word) : State := vs.foldl (State.afterPush d) s

@[simp] theorem afterPushes_nil (d : Draw) (s : State) : s.afterPushes d [] = s := rfl

@[simp] theorem afterPushes_cons (d : Draw) (s : State) (v : Word) (vs : List Word) :
    s.afterPushes d (v :: vs) = (s.afterPush d v).afterPushes d vs := rfl

/-- A PUSH command of the producer, while capture is active, takes the machine there. -/
theorem step_push {s : State} {v : Word} {d : Draw} {rest : List Event} (hactive : s.active = true)
    (hin : s.inbox = .issue .producer (encode (.push v)) d :: rest) : step s = .next (s.afterPush d v) := by
  have hpush := exec_push_of_active (s := s.taking rest .producer d) rfl hactive v
  rw [step_of_command hin (decode_encode_push v), hpush, complete_eq, State.afterPush, hin, List.tail_cons]

theorem runSteps_pushes {s : State} {d : Draw} {vs : List Word} {rest : List Event} (hactive : s.active = true)
    (hin : s.inbox = pushEvents d vs ++ rest) : runSteps vs.length s = .next (s.afterPushes d vs) := by
  induction vs generalizing s with
  | nil => rfl
  | cons v vs ih =>
    rw [List.length_cons, runSteps_of_next (step_push hactive hin), afterPushes_cons]
    exact ih hactive (congrArg List.tail hin)

theorem afterPush_inv {s : State} (h : s.Inv) (d : Draw) (v : Word) : (s.afterPush d v).Inv :=
  ((h.taking _ _ d).push v).reporting _

/-- What no push changes, no run of pushes changes. -/
theorem afterPushes_unchanged {α : Type} (f : State → α) {d : Draw} (h : ∀ s v, f (s.afterPush d v) = f s)
    (s : State) (vs : List Word) : f (s.afterPushes d vs) = f s := by
  induction vs generalizing s with
  | nil => rfl
  | cons v vs ih => rw [afterPushes_cons, ih, h]

@[simp] theorem afterPushes_cfg (d : Draw) (s : State) (vs : List Word) : (s.afterPushes d vs).cfg = s.cfg :=
  afterPushes_unchanged State.cfg (fun _ _ => rfl) s vs

@[simp] theorem afterPushes_phase (d : Draw) (s : State) (vs : List Word) : (s.afterPushes d vs).phase = s.phase :=
  afterPushes_unchanged State.phase (fun _ _ => rfl) s vs

@[simp] theorem afterPushes_et (d : Draw) (s : State) (vs : List Word) : (s.afterPushes d vs).et = s.et :=
  afterPushes_unchanged State.et (fun _ _ => rfl) s vs

@[simp] theorem afterPushes_p (d : Draw) (s : State) (vs : List Word) : (s.afterPushes d vs).p = s.p :=
  afterPushes_unchanged State.p (fun _ _ => rfl) s vs

@[simp] theorem afterPushes_word (d : Draw) (s : State) (vs : List Word) : (s.afterPushes d vs).word = s.word :=
  afterPushes_unchanged State.word (fun _ _ => rfl) s vs

/-- Each push takes its event from the inbox. -/
theorem afterPushes_inbox (d : Draw) (s : State) (vs : List Word) :
    (s.afterPushes d vs).inbox = s.inbox.drop vs.length := by
  induction vs generalizing s with
  | nil => rfl
  | cons v vs ih => rw [afterPushes_cons, ih, List.length_cons, ← List.drop_tail]; rfl

/-- In a full buffer every push evicts: the buffer stays full and TAIL moves with each (20_memory.md R77). -/
theorem afterPushes_of_full {s : State} (h : s.Inv) (hfull : s.size = s.cfg.n - 1) (d : Draw) (vs : List Word) :
    (s.afterPushes d vs).size = s.cfg.n - 1 ∧ (s.afterPushes d vs).tail = (s.tail + vs.length) % s.cfg.n := by
  induction vs generalizing s with
  | nil => exact ⟨hfull, (Nat.mod_eq_of_lt h.tail_lt).symm⟩
  | cons v vs ih =>
    have hn := h.two_le_n
    have hev : s.evicted = 1 := by rw [evicted_eq_ite hn, if_pos hfull]
    have hsize : (s.afterPush d v).size = s.size + 1 - s.evicted := pushSample_size h.head_lt h.tail_lt hn v
    have htail : (s.afterPush d v).tail = s.slotOf s.evicted := pushSample_tail_eq_slotOf h.head_lt h.tail_lt hn v
    obtain ⟨ihsize, ihtail⟩ := ih (afterPush_inv h d v) (by rw [hsize, hev, hfull]; rfl)
    refine ⟨ihsize, ihtail.trans ?_⟩
    rw [htail, hev, State.slotOf, List.length_cons, Nat.add_comm vs.length, ← Nat.add_assoc]
    exact Nat.mod_add_mod _ _ _

/-- At most N pushes write the slots from HEAD on, each its own, and leave the others alone. -/
theorem afterPushes_read {s : State} (hh : s.head < s.cfg.n) (d : Draw) {vs : List Word} (hlen : vs.length ≤ s.cfg.n)
    {i : Nat} (hi : i < s.cfg.n) :
    (s.afterPushes d vs).buf.read ((s.head + i) % s.cfg.n) = vs[i]?.or (s.buf.read ((s.head + i) % s.cfg.n)) := by
  induction vs generalizing s i with
  | nil => rfl
  | cons v vs ih =>
    rw [List.length_cons] at hlen
    have hread (k : Nat) : (s.afterPush d v).buf.read k = if k = s.head then some v else s.buf.read k :=
      pushSample_read v (s.taking s.inbox.tail .producer d) k
    have hslot (j : Nat) : ((s.afterPush d v).head + j) % s.cfg.n = (s.head + (j + 1)) % s.cfg.n := by
      rw [Nat.add_comm j, ← Nat.add_assoc]
      exact Nat.mod_add_mod _ _ _
    have hrest {j : Nat} (hj : j < s.cfg.n) :
        ((s.afterPush d v).afterPushes d vs).buf.read ((s.head + (j + 1)) % s.cfg.n) =
          vs[j]?.or ((s.afterPush d v).buf.read ((s.head + (j + 1)) % s.cfg.n)) := by
      rw [← hslot]
      exact ih (s := s.afterPush d v) (Nat.mod_lt _ (Nat.zero_lt_of_lt hh)) (Nat.le_of_succ_le hlen) hj
    cases i with
    | zero =>
      have hlast := hrest (j := s.cfg.n - 1) (by omega)
      have hwrap : (s.head + (s.cfg.n - 1 + 1)) % s.cfg.n = s.head := by
        rw [Nat.sub_add_cancel (by omega), Nat.add_mod_right, Nat.mod_eq_of_lt hh]
      rw [hwrap, hread, if_pos rfl, List.getElem?_eq_none (by omega)] at hlast
      rw [Nat.add_zero, Nat.mod_eq_of_lt hh]
      exact hlast
    | succ i =>
      have hne : (s.head + (i + 1)) % s.cfg.n ≠ s.head := by
        rw [mod_eq_ite_of_lt_two_mul (by omega)]
        split <;> omega
      rw [afterPushes_cons, hrest (by omega), hread, if_neg hne, List.getElem?_cons_succ]

end Sys2Proof.Machine
end

section
/-! Settled: PEEK, COMMIT and the wrap of evictions on the slots of the ring buffer (20_memory.md). -/

namespace Sys2Proof.Machine

/-- Settles O36: the tail moves past `c` retained samples. -/
theorem commitRetiresOldest : Obligations.CommitRetiresOldest := by
  unfold Obligations.CommitRetiresOldest
  intro s t et c hinv hcommit hreport
  obtain ⟨hc, rfl⟩ := exec_commit_succeeded hcommit hreport
  exact retained_advanceTail hinv.head_lt hinv.tail_lt hc

/-- Settles O56: after N evictions TAIL is where it was, the scan position is still in range, and N pushes have written
all N slots. -/
theorem fullWrapOfEvictionsIsNotDetected : Obligations.FullWrapOfEvictionsIsNotDetected := by
  unfold Obligations.FullWrapOfEvictionsIsNotDetected
  intro s d vs hinv hphase htail hfull hlen hin
  have hactive : s.active = true := hinv.poll_active (by simp [hphase])
  have hrun := runSteps_pushes (rest := []) hactive (hin.trans (List.append_nil _).symm)
  obtain ⟨hsize, hwrap⟩ := afterPushes_of_full hinv hfull d vs
  have hturn : (s.afterPushes d vs).consumersTurn :=
    .inl (by rw [afterPushes_inbox, hin, List.drop_eq_nil_of_le (by simp [pushEvents])])
  have hback : (s.afterPushes d vs).tail = s.et := by
    rw [hwrap, hlen, Nat.add_mod_right, Nat.mod_eq_of_lt hinv.tail_lt, htail]
  have hrange : s.p ≤ (s.afterPushes d vs).size := by
    have := hinv.p_lt (.inr hphase)
    omega
  obtain ⟨-, hcommits, -⟩ := commitStepEndsAttempt (s.afterPushes d vs) hturn (by simpa using hphase)
  have hstep := hcommits (by simpa using hback) (by simpa using hrange)
  have hend := (runSteps_add hrun 1).trans ((runSteps_one _).trans hstep)
  refine ⟨_, hend, rfl, by simp, by simp, fun i hi => ?_⟩
  refine (afterPushes_read hinv.head_lt d hlen.le hi).trans ?_
  rw [List.getElem?_eq_getElem (hlen ▸ hi), Option.some_or]

/-- Settles O30, by the two answers of the atomic access. -/
theorem peekReadsRetainedSample : Obligations.PeekReadsRetainedSample := by
  unfold Obligations.PeekReadsRetainedSample
  intro s i hagent hactive
  rw [exec_peek_of_active hagent hactive, complete_eq, ← State.size, ← State.slotOf]
  rcases peekAt_cases i.toNat s with ⟨hi, e⟩ | ⟨hi, e⟩ <;> rw [e]
  · rw [if_neg (Nat.not_lt.2 hi)]
    rfl
  · rw [if_pos hi]
    rfl

end Sys2Proof.Machine
end

section
/-! The decoder and the encoder by their fields: when a word decodes, which fields the word of an operation has, and
what a row of the opcode table asks of the fields (30_encoding.md R111 to R115). -/

namespace Sys2Proof

/-! ## Words and fields -/

/-- The fields determine the word (30_encoding.md R111). -/
theorem splitWord_injective {w w' : CmdWord} (h : splitWord w = splitWord w') : w = w' := by
  have hop := congrArg (fun f => f.op.toNat) h
  have hl := congrArg (fun f => f.l.toNat) h
  have hlow := congrArg (fun f => f.reservedLow.toNat) h
  have ha := congrArg (fun f => f.a.toNat) h
  have hb := congrArg (fun f => f.b.toNat) h
  have hhigh := congrArg (fun f => f.reservedHigh.toNat) h
  have hv := congrArg (fun f => f.v.toNat) h
  simp only [splitWord_op_toNat, splitWord_l_toNat, splitWord_reservedLow_toNat, splitWord_a_toNat,
    splitWord_b_toNat, splitWord_reservedHigh_toNat, splitWord_v_toNat] at hop hl hlow ha hb hhigh hv
  have hw : w.toNat < 18446744073709551616 := w.isLt
  have hw' : w'.toNat < 18446744073709551616 := w'.isLt
  exact BitVec.eq_of_toNat_eq (by omega)

/-- The bitwise and of two words, field by field. -/
def Fields.and (f g : Fields) : Fields :=
  ⟨f.op &&& g.op, f.l &&& g.l, f.reservedLow &&& g.reservedLow, f.a &&& g.a, f.b &&& g.b,
    f.reservedHigh &&& g.reservedHigh, f.v &&& g.v⟩

/-- The fields of a masked word are the masked fields. -/
theorem splitWord_and (w m : CmdWord) : splitWord (w &&& m) = (splitWord w).and (splitWord m) := by
  simp only [splitWord, Fields.and, BitVec.extractLsb'_and]

/-! ## When a word decodes -/

/-- The reserved bits are 0, and so is each field the operation does not use (30_encoding.md R113). -/
def Fields.Clean (f : Fields) : Prop :=
  f.reservedLow = 0 ∧ f.reservedHigh = 0 ∧ (usesL f.op = false → f.l = 0) ∧ (usesA f.op = false → f.a = 0)
    ∧ (usesB f.op = false → f.b = 0) ∧ (usesV f.op = false → f.v = 0)

/-- A check of the decoder is passed exactly when its ground for refusing the word is absent. -/
theorem ite_error_eq_ok_iff {e : DecodeError} {i : Instr} {k : Except DecodeError Instr} {c : Prop} [Decidable c] :
    (if c then .error e else k) = .ok i ↔ ¬c ∧ k = .ok i := by
  split <;> simp [*]

/-- A word decodes to the operation its opcode names exactly when its fields are clean (30_encoding.md R114). -/
theorem decode_eq_ok_iff (w : CmdWord) (i : Instr) :
    decode w = .ok i ↔ instrOfFields (splitWord w) = some i ∧ (splitWord w).Clean := by
  cases h : instrOfFields (splitWord w) with
  | none => simp [decode, h]
  | some j =>
    simp only [decode, h, ite_error_eq_ok_iff]
    simp [Fields.Clean, and_assoc, and_comm (a := j = i)]

/-- The opcodes that name an operation (30_encoding.md R112). -/
theorem instrOfFields_isSome_iff (f : Fields) :
    (∃ i, instrOfFields f = some i) ↔ 1 ≤ f.op.toNat ∧ f.op.toNat ≤ 12 := by
  unfold instrOfFields
  split
  case h_13 =>
    simp only [reduceCtorEq, exists_false, false_iff, imp_false] at *
    omega
  all_goals simp [*]

/-- Which words decode (30_encoding.md R113). -/
theorem exists_decode_iff (w : CmdWord) :
    (∃ i, decode w = .ok i) ↔
      (1 ≤ (splitWord w).op.toNat ∧ (splitWord w).op.toNat ≤ 12) ∧ (splitWord w).Clean := by
  simp only [decode_eq_ok_iff, exists_and_right, instrOfFields_isSome_iff]

/-- A word is illegal exactly when it decodes to nothing. -/
theorem exists_error_iff (w : CmdWord) : (∃ e, decode w = .error e) ↔ ¬∃ i, decode w = .ok i := by
  cases decode w <;> simp

/-! ## The word of an operation -/

/-- The fields of the word of an operation (30_encoding.md R112, R115). -/
def fieldsOf : Instr → Fields
  | .init => ⟨1, 0, 0, 0, 0, 0, 0⟩
  | .teardown => ⟨2, 0, 0, 0, 0, 0, 0⟩
  | .poll => ⟨3, 0, 0, 0, 0, 0, 0⟩
  | .edge lvl now => ⟨4, BitVec.ofNat 1 lvl.toNat, 0, 0, 0, 0, now⟩
  | .push v => ⟨5, 0, 0, 0, 0, 0, v⟩
  | .peek i => ⟨6, 0, 0, i, 0, 0, 0⟩
  | .snap => ⟨7, 0, 0, 0, 0, 0, 0⟩
  | .commit et c => ⟨8, 0, 0, c, et, 0, 0⟩
  | .valid w => ⟨9, 0, 0, 0, 0, 0, w⟩
  | .parity w => ⟨10, 0, 0, 0, 0, 0, w⟩
  | .isnum w => ⟨11, 0, 0, 0, 0, 0, w⟩
  | .height w => ⟨12, 0, 0, 0, 0, 0, w⟩

theorem level_toNat_lt (l : Level) : l.toNat < 2 := by cases l <;> decide

/-- The word of an operation has the operation's fields (30_encoding.md R115). -/
@[simp] theorem splitWord_encode (i : Instr) : splitWord (encode i) = fieldsOf i := by
  cases i with
  | edge lvl now => exact Machine.splitWord_packWord 0 0 now (by decide) (level_toNat_lt lvl)
  | init | teardown | poll | snap => exact Machine.splitWord_packWord 0 0 0 (by decide) (by decide)
  | push v | valid v | parity v | isnum v | height v =>
    exact Machine.splitWord_packWord 0 0 v (by decide) (by decide)
  | peek i => exact Machine.splitWord_packWord i 0 0 (by decide) (by decide)
  | commit et c => exact Machine.splitWord_packWord c et 0 (by decide) (by decide)

/-- The fields of an operation's word name the operation, with its operands. -/
theorem instrOfFields_fieldsOf (i : Instr) : instrOfFields (fieldsOf i) = some i := by
  cases i with
  | edge lvl now => cases lvl <;> rfl
  | _ => rfl

/-- Only the fields the operation uses are filled in. -/
theorem fieldsOf_clean (i : Instr) : (fieldsOf i).Clean := by
  cases i <;> simp [Fields.Clean, fieldsOf, usesL, usesA, usesB, usesV]

/-- The word of an operation decodes to it (30_encoding.md R114, R115). -/
theorem decode_encode (i : Instr) : decode (encode i) = .ok i := by
  rw [decode_eq_ok_iff, splitWord_encode]
  exact ⟨instrOfFields_fieldsOf i, fieldsOf_clean i⟩

/-- The bit a level is stored in is the bit it was read from. -/
theorem ofNat_toNat_ofBit (b : BitVec 1) : BitVec.ofNat 1 (Level.ofBit (b == 1#1)).toNat = b := by
  revert b
  decide

theorem eq_ofNat_of_toNat_eq {op : BitVec 4} {k : Nat} (h : op.toNat = k) : op = BitVec.ofNat 4 k := by
  simp [← h]

/-- Clean fields are the fields of the operation they name: every field is its operand, the opcode, or 0. -/
theorem fieldsOf_of_instrOfFields {f : Fields} {i : Instr} (h : instrOfFields f = some i) (hclean : f.Clean) :
    fieldsOf i = f := by
  obtain ⟨op, l, low, a, b, high, v⟩ := f
  obtain ⟨rfl, rfl, hl, ha, hb, hv⟩ := hclean
  simp only [instrOfFields] at h
  split at h
  case h_13 => cases h
  all_goals
    rename_i hop
    obtain rfl := eq_ofNat_of_toNat_eq hop
    obtain rfl := Option.some.inj h
    simp_all [fieldsOf, ofNat_toNat_ofBit, usesL, usesA, usesB, usesV]

/-! ## The rows of the opcode table -/

/-- The fixed bits of the operation with opcode `op`: the opcode, and 0 elsewhere (30_encoding.md R112). -/
def matchFields (op : BitVec 4) : Fields := ⟨op, 0, 0, 0, 0, 0, 0⟩

/-- The bits fixed for the operation with opcode `op`: all but the fields it uses (30_encoding.md R113). -/
def maskFields (op : BitVec 4) : Fields :=
  ⟨BitVec.allOnes 4, if usesL op then 0 else BitVec.allOnes 1, BitVec.allOnes 3,
    if usesA op then 0 else BitVec.allOnes 8, if usesB op then 0 else BitVec.allOnes 8, BitVec.allOnes 8,
    if usesV op then 0 else BitVec.allOnes 32⟩

/-- The two columns of the table agree with the fields each operation uses. -/
theorem opcodeTable_fields : ∀ r ∈ opcodeTable,
    splitWord r.pattern = matchFields (splitWord r.pattern).op
      ∧ splitWord r.mask = maskFields (splitWord r.pattern).op := by
  decide

/-- The opcodes of the table's rows are 1 to 12 (30_encoding.md R112). -/
theorem exists_row_iff : ∀ op : BitVec 4,
    (∃ r ∈ opcodeTable, op = (splitWord r.pattern).op) ↔ 1 ≤ op.toNat ∧ op.toNat ≤ 12 := by
  decide

/-- Masking a field the operation does not use leaves 0 exactly when the field is 0, and always in one it uses. -/
theorem and_maskField_eq_zero_iff {n : Nat} (x : BitVec n) (used : Bool) :
    x &&& (if used then 0 else BitVec.allOnes n) = 0 ↔ (used = false → x = 0) := by
  cases used <;> simp

/-- Fields agree with the fixed bits of an opcode exactly when they hold that opcode and are clean. -/
theorem and_maskFields_eq_iff (f : Fields) (op : BitVec 4) :
    f.and (maskFields op) = matchFields op ↔ f.op = op ∧ f.Clean := by
  simp only [Fields.and, maskFields, matchFields, Fields.mk.injEq, and_maskField_eq_zero_iff, BitVec.and_allOnes]
  constructor
  · rintro ⟨rfl, hl, hlow, ha, hb, hhigh, hv⟩
    exact ⟨rfl, hlow, hhigh, hl, ha, hb, hv⟩
  · rintro ⟨rfl, hlow, hhigh, hl, ha, hb, hv⟩
    exact ⟨rfl, hl, hlow, ha, hb, hhigh, hv⟩

/-- A word fits a row exactly when its opcode is the row's and its fields are clean. -/
theorem fits_iff {r : OpcodeRow} (hr : r ∈ opcodeTable) (w : CmdWord) :
    r.fits w = true ↔ (splitWord w).op = (splitWord r.pattern).op ∧ (splitWord w).Clean := by
  obtain ⟨hpattern, hmask⟩ := opcodeTable_fields r hr
  calc r.fits w = true ↔ w &&& r.mask = r.pattern := beq_iff_eq
    _ ↔ splitWord (w &&& r.mask) = splitWord r.pattern := ⟨congrArg splitWord, splitWord_injective⟩
    _ ↔ (splitWord w).and (maskFields (splitWord r.pattern).op) = matchFields (splitWord r.pattern).op := by
      rw [splitWord_and, hmask, ← hpattern]
    _ ↔ _ := and_maskFields_eq_iff _ _

/-- Which words fit a row of the table: those whose opcode is in it and whose fields are clean. -/
theorem legalWord_iff (w : CmdWord) : legalWord w = true ↔
    (1 ≤ (splitWord w).op.toNat ∧ (splitWord w).op.toNat ≤ 12) ∧ (splitWord w).Clean := by
  rw [← exists_row_iff, legalWord, List.any_eq_true]
  constructor
  · rintro ⟨r, hr, hfits⟩
    obtain ⟨hop, hclean⟩ := (fits_iff hr w).1 hfits
    exact ⟨⟨r, hr, hop⟩, hclean⟩
  · rintro ⟨⟨r, hr, hop⟩, hclean⟩
    exact ⟨r, hr, (fits_iff hr w).2 ⟨hop, hclean⟩⟩

/-! ## Clean fields as arithmetic -/

/-- Clean fields in terms of the word as a number (30_encoding.md R111, R113). -/
theorem clean_splitWord_iff (w : CmdWord) : (splitWord w).Clean ↔
    w.toNat / 32 % 8 = 0 ∧ w.toNat / 16777216 % 256 = 0
      ∧ (w.toNat % 16 ≠ 4 → w.toNat / 16 % 2 = 0)
      ∧ (w.toNat % 16 ≠ 6 ∧ w.toNat % 16 ≠ 8 → w.toNat / 256 % 256 = 0)
      ∧ (w.toNat % 16 ≠ 8 → w.toNat / 65536 % 256 = 0)
      ∧ (w.toNat % 16 ∉ [4, 5, 9, 10, 11, 12] → w.toNat / 4294967296 = 0) := by
  have hv : w.toNat / 4294967296 % 4294967296 = w.toNat / 4294967296 :=
    Nat.mod_eq_of_lt (by have : w.toNat < 18446744073709551616 := w.isLt; omega)
  simp [Fields.Clean, usesL, usesA, usesB, usesV, ← BitVec.toNat_inj, splitWord_op_toNat, splitWord_l_toNat,
    splitWord_reservedLow_toNat, splitWord_a_toNat, splitWord_b_toNat, splitWord_reservedHigh_toNat,
    splitWord_v_toNat, hv]

end Sys2Proof
end

section
/-! How a command word comes to run and what commands report: the issuer of a placed word, the steps that report a
height, and the results of SNAP and HEIGHT (30_encoding.md R104 to R107, R110, R116). -/

namespace Sys2Proof.Machine

/-! ## Who issues a word -/

/-- A word is placed for the agent that may issue the operation it encodes (30_encoding.md R116). -/
theorem mayIssue_issuerOf_encode (i : Instr) : mayIssue (issuerOf (encode i)) i = true := by
  have hop : (encode i).extractLsb' 0 4 = (fieldsOf i).op := congrArg Fields.op (splitWord_encode i)
  rw [issuerOf, hop]
  cases i <;> rfl

/-- The agent check refuses every other agent (60_exceptions.md R306 check 2). -/
theorem requireAgent_of_ne {a : Agent} {s : State} (h : s.agent ≠ a) (k : StepResult) :
    requireAgent a s k = refuse .wrongContext s := if_neg h

/-- An illegal word is refused and its event taken (30_encoding.md R113, 60_exceptions.md R306 check 1). -/
theorem step_of_illegal {s : State} {a : Agent} {w : CmdWord} {d : Draw} {rest : List Event} {e : DecodeError}
    (hin : s.inbox = .issue a w d :: rest) (hdecode : decode w = .error e) :
    step s = refuse .illegalCommand (s.taking rest a d) := by
  simp only [step, takeEvent, hin, runWord, hdecode]

/-- Any word of 64 bits placed for the next step is the next event. -/
theorem withFetchWord_inbox (s : State) (w : CmdWord) :
    (s.withFetchWord 64 w.toNat).inbox = .issue (issuerOf w) w placedDraw :: s.inbox := by
  simp only [State.withFetchWord, placeWord, Nat.mod_eq_of_lt w.isLt, BitVec.ofNat_toNat, BitVec.setWidth_eq]

/-! ## No command reports a height -/

/-- Whatever next state `k` answers with reports no height of a POLL. -/
def ReportsNoHeight (k : StepResult) : Prop := ∀ t h, k = .next t → t.report ≠ .result (.pollHeight h)

theorem ReportsNoHeight.reporting (s : State) {r : Report} (hr : ∀ h, r ≠ .result (.pollHeight h)) :
    ReportsNoHeight (.next (s.reporting r)) := by
  rintro _ h ⟨⟩
  exact hr h

theorem ReportsNoHeight.refuse (s : State) (c : RefusalCode) : ReportsNoHeight (refuse c s) :=
  .reporting s nofun

theorem ReportsNoHeight.complete (s : State) {r : Result} (hr : ∀ h, r ≠ .pollHeight h) :
    ReportsNoHeight (complete r s) :=
  .reporting s fun h e => hr h (Report.result.inj e)

theorem ReportsNoHeight.fault (f : Fault) : ReportsNoHeight (.fault f) := by rintro _ _ ⟨⟩

theorem ReportsNoHeight.requireAgent {s : State} {k : StepResult} (a : Agent) (h : ReportsNoHeight k) :
    ReportsNoHeight (requireAgent a s k) := by
  rcases requireAgent_cases a s k with ⟨-, e⟩ | ⟨-, e⟩ <;> rw [e]
  · exact h
  · exact .refuse s _

theorem ReportsNoHeight.requireActive {s : State} {k : StepResult} (h : ReportsNoHeight k) :
    ReportsNoHeight (requireActive s k) := by
  rcases requireActive_cases s k with ⟨-, e⟩ | ⟨-, e⟩ <;> rw [e]
  · exact h
  · exact .refuse s _

theorem ReportsNoHeight.requirePhaseIdle {s : State} {k : StepResult} (h : ReportsNoHeight k) :
    ReportsNoHeight (requirePhaseIdle s k) := by
  rcases requirePhaseIdle_cases s k with ⟨-, e⟩ | ⟨-, e⟩ <;> rw [e]
  · exact h
  · exact .refuse s _

/-- Every operation answers at once with something else: POLL only starts an attempt (42_frame_decoder.md R214). -/
theorem exec_reportsNoHeight (i : Instr) (s : State) : ReportsNoHeight (exec i s) := by
  cases i with
  | init =>
    refine .requireAgent _ ?_
    split_ifs
    · exact .refuse s _
    · exact .complete _ nofun
    · exact .complete _ nofun
  | teardown => exact .requireAgent _ (.requireActive (.requirePhaseIdle (.complete _ nofun)))
  | poll => exact .requireAgent _ (.requireActive (.requirePhaseIdle (.reporting _ nofun)))
  | edge l now =>
    refine .requireAgent _ ?_
    split_ifs
    · exact .complete _ nofun
    · exact .reporting _ nofun
  | push v => exact .requireAgent _ (.requireActive (.complete _ nofun))
  | peek i =>
    rcases exec_peek_cases i s with ⟨-, e⟩ | ⟨c, e⟩ <;> rw [e]
    · exact .complete _ nofun
    · exact .refuse s _
  | snap => exact .requireAgent _ (.requireActive (.complete _ nofun))
  | commit et c =>
    rcases exec_commit_cases et c s with ⟨-, e⟩ | ⟨-, -, e⟩ | ⟨-, -, e⟩ | ⟨r, e⟩ <;> rw [e]
    · exact .complete _ nofun
    · exact .fault _
    · exact .complete _ nofun
    · exact .refuse s _
  | valid w | parity w | isnum w | height w => exact .complete _ nofun

/-- Nor does any command word. -/
theorem runWord_reportsNoHeight (w : CmdWord) (s : State) : ReportsNoHeight (runWord w s) := by
  rcases runWord_cases w s with ⟨i, -, e⟩ | ⟨_, -, e⟩ <;> rw [e]
  · exact exec_reportsNoHeight i s
  · exact .refuse s _

/-- A frame classified as a height has one that is not 0 (42_frame_decoder.md R219). -/
theorem classify_height_ne_zero {c : Config.Params} {w : Word} {h : Byte} (heq : classify c w = .pollHeight h) :
    h ≠ 0 := by
  unfold classify at heq
  split_ifs at heq with _ _ _ hzero
  cases heq
  simpa using hzero

/-- A turn of the consumer that newly reports a height reports the classification of a frame. -/
theorem ConsumerEffect.of_height {s t : State} {h : Byte} (effect : ConsumerEffect s t)
    (hnew : s.report ≠ .result (.pollHeight h)) (hreport : t.report = .result (.pollHeight h)) :
    classify s.cfg s.word = .pollHeight h := by
  cases effect with
  | waits => exact absurd hreport hnew
  | commits => exact Report.result.inj hreport
  | snaps | findsNoSync | findsMarker | passesOver | runsShort | emits | losesRace => cases hreport

/-- A step that newly reports a height is the consumer's, and the height is the one its frame is classified by. -/
theorem classify_of_step_reports_height {s t : State} {h : Byte} (hstep : step s = .next t)
    (hnew : s.report ≠ .result (.pollHeight h)) (hreport : t.report = .result (.pollHeight h)) :
    classify s.cfg s.word = .pollHeight h := by
  rcases step_cases s with ⟨-, e⟩ | ⟨rest, -, e⟩ | ⟨a, w, d, rest, -, e⟩ <;> rw [e] at hstep
  · exact (consumerStep_effect hstep).of_height hnew hreport
  · exact (consumerStep_effect hstep).of_height hnew hreport
  · exact absurd hreport (runWord_reportsNoHeight w _ t h hstep)

/-! ## SNAP and HEIGHT -/

/-- SNAP by the consumer while capture is active (40_ring_buffer.md R137). -/
theorem exec_snap_of_active {s : State} (hagent : s.agent = .consumer) (hactive : s.active = true) :
    exec .snap s = complete (.tailIndex (BitVec.ofNat 8 s.tail)) s := by
  simp only [exec, execSnap, requireAgent_of_eq hagent, requireActive_of_eq hactive, snapTail]

/-- N is at most 256, so an index fits 8 bits (00_scope.md R11). -/
theorem State.Inv.n_le {s : State} (h : s.Inv) : s.cfg.n ≤ 256 := (wf_bounds h.cfg_wf).2.2.1

/-- A nibble reversed: bit i is bit 3 - i (43_frame_validation.md R258). -/
theorem rev4_getLsbD (b : BitVec 4) {i : Nat} (hi : i < 4) : (rev4 b).getLsbD i = b.getLsbD (3 - i) := by
  revert b
  interval_cases i <;> decide

/-- A byte reversed: bit i is bit 7 - i (43_frame_validation.md R258). -/
theorem rev8_getLsbD (b : Byte) {i : Nat} (hi : i < 8) : (rev8 b).getLsbD i = b.getLsbD (7 - i) := by
  rw [rev8, BitVec.getLsbD_append]
  split
  all_goals
    rw [rev4_getLsbD _ (by omega), BitVec.getLsbD_extractLsb', decide_eq_true (by omega), Bool.true_and]
    congr 1
    omega

/-- The payload is frame bits [8:1] (30_encoding.md R96). -/
theorem payload_getLsbD (w : Word) {i : Nat} (hi : i < 8) : (payload w).getLsbD i = w.getLsbD (1 + i) := by
  rw [payload, BitVec.getLsbD_extractLsb', decide_eq_true hi, Bool.true_and]

/-- Bit i of the height is frame bit 8 - i (43_frame_validation.md R257, R258). -/
theorem heightField_getLsbD (w : Word) {i : Nat} (hi : i < 8) : (heightField w).getLsbD i = w.getLsbD (8 - i) := by
  rw [heightField, rev8_getLsbD _ hi, payload_getLsbD _ (by omega)]
  congr 1
  omega

/-! ## Results as numbers -/

/-- A byte widened to the 33 bits of a result is the same number (30_encoding.md R104, R106). -/
theorem setWidth_result_toNat (h : Byte) : (h.setWidth 33).toNat = h.toNat :=
  BitVec.toNat_setWidth_of_le (by decide)

/-- A one-bit result is 0 or 1 (30_encoding.md R107). -/
theorem bit_result_toNat (b : Bool) : (if b then 1 else 0 : BitVec 33).toNat = b.toNat := by cases b <;> rfl

/-- SOME(v) is bit 32 and v below it (30_encoding.md R105). -/
theorem some_result_toNat (v : Word) : (1#1 ++ v).toNat = 2 ^ 32 + v.toNat := by
  rw [BitVec.toNat_append, ← Nat.shiftLeft_add_eq_or_of_lt v.isLt]
  rfl

end Sys2Proof.Machine
end

section
/-! Settled: the encoding of commands, how a word runs or is refused, and the results commands answer with
(30_encoding.md). -/

namespace Sys2Proof.Machine

/-! ## Decoding and encoding -/

/-- Settles O1: the fields of the operation's word are clean and name the operation. -/
theorem decodeOfEncodeIsIdentity : Obligations.DecodeOfEncodeIsIdentity := by
  unfold Obligations.DecodeOfEncodeIsIdentity
  exact decode_encode

/-- Settles O2: clean fields are the fields of the operation they name, and the fields determine the word. -/
theorem encodeOfDecodeIsIdentity : Obligations.EncodeOfDecodeIsIdentity := by
  unfold Obligations.EncodeOfDecodeIsIdentity
  intro w i hdecode
  obtain ⟨hinstr, hclean⟩ := (decode_eq_ok_iff w i).1 hdecode
  exact splitWord_injective ((splitWord_encode i).trans (fieldsOf_of_instrOfFields hinstr hclean))

/-- Settles O3: fitting a row and decoding are the same condition on the fields. -/
theorem decoderAcceptsExactlyLegalWords : Obligations.DecoderAcceptsExactlyLegalWords := by
  unfold Obligations.DecoderAcceptsExactlyLegalWords
  intro w
  rw [legalWord_iff, exists_decode_iff]

/-- Settles O4: the negation of the condition under which a word decodes, its fields as numbers. -/
theorem illegalWordsByField : Obligations.IllegalWordsByField := by
  unfold Obligations.IllegalWordsByField
  intro w
  rw [exists_error_iff, exists_decode_iff, clean_splitWord_iff, splitWord_op_toNat]
  simp only [List.mem_cons, List.not_mem_nil, or_false, Nat.reducePow]
  have hop : w.toNat % 16 < 16 := Nat.mod_lt _ (by decide)
  generalize w.toNat % 16 = op at hop ⊢
  generalize w.toNat / 16 % 2 = l, w.toNat / 256 % 256 = a, w.toNat / 65536 % 256 = b, w.toNat / 4294967296 = v,
    w.toNat / 32 % 8 = low, w.toNat / 16777216 % 256 = high
  omega

/-- Settles O5: each word is the word of the operation it stands for. -/
theorem specSampleWordsDecode : Obligations.SpecSampleWordsDecode := by
  unfold Obligations.SpecSampleWordsDecode
  exact ⟨decode_encode .snap, decode_encode (.peek 3), decode_encode (.commit 0 19), decode_encode (.edge .high 1000),
    decode_encode (.push 45000), decode_encode (.height 0x5A1004B4), decode_encode (.edge .low 0xFFFFFFFF),
    decode_encode (.commit 255 255)⟩

/-! ## Running a word -/

/-- Settles O7: the issuer of the placed word may issue the operation, and the word decodes to it. -/
theorem placedWordRunsNext : Obligations.PlacedWordRunsNext := by
  unfold Obligations.PlacedWordRunsNext
  intro s i
  exact ⟨issuerOf (encode i), mayIssue_issuerOf_encode i,
    step_of_command (withFetchWord_inbox s (encode i)) (decode_encode i)⟩

/-- Settles O8: a word that fits no row does not decode. -/
theorem illegalWordIsRefused : Obligations.IllegalWordIsRefused := by
  unfold Obligations.IllegalWordIsRefused
  intro s a w d rest hin hillegal
  have hnone : ¬∃ i, decode w = .ok i := by
    rw [← decoderAcceptsExactlyLegalWords w, hillegal]
    exact Bool.false_ne_true
  obtain ⟨e, hdecode⟩ := (exists_error_iff w).2 hnone
  exact step_of_illegal hin hdecode

/-- Settles O6: the meaning runs in the state with the event taken. -/
theorem stepRunsDecodedCommand : Obligations.StepRunsDecodedCommand := by
  unfold Obligations.StepRunsDecodedCommand
  intro s a w d rest i hin hdecode
  exact step_of_command hin hdecode

/-- Settles O14: the operations only some agents may issue are guarded by the agent check, before any other. -/
theorem wrongAgentIsRefused : Obligations.WrongAgentIsRefused := by
  unfold Obligations.WrongAgentIsRefused
  intro i s h
  cases i with
  | valid w | parity w | isnum w | height w => cases h
  | init | teardown | poll | edge l now | push v | peek off | snap | commit et c =>
    exact requireAgent_of_ne (beq_eq_false_iff_ne.1 h) _

/-! ## Results -/

/-- Settles O43: a newly reported height comes from the classification, which answers no height of 0. -/
theorem pollNeverReportsZeroHeight : Obligations.PollNeverReportsZeroHeight := by
  unfold Obligations.PollNeverReportsZeroHeight
  refine ⟨fun s t h hnew hstep hreport => ?_, fun _ => rfl⟩
  have hne : h ≠ 0 := classify_height_ne_zero (classify_of_step_reports_height hstep hnew hreport)
  exact Nat.pos_of_ne_zero fun hzero => hne (BitVec.eq_of_toNat_eq hzero)

/-- Settles O32: TAIL is an index below N, and N is at most 256. -/
theorem snapReadsTail : Obligations.SnapReadsTail := by
  unfold Obligations.SnapReadsTail
  intro s hagent hactive
  refine ⟨exec_snap_of_active hagent hactive, fun hinv => ?_⟩
  exact Nat.mod_eq_of_lt (Nat.lt_of_lt_of_le hinv.tail_lt hinv.n_le)

/-- Settles O40, by the bits of the height. -/
theorem heightReversesPayload : Obligations.HeightReversesPayload := by
  unfold Obligations.HeightReversesPayload
  intro s w
  exact ⟨heightField w, rfl, fun i hi => heightField_getLsbD w hi⟩

/-- Settles O44, result by result. -/
theorem resultEncodings : Obligations.ResultEncodings := by
  unfold Obligations.ResultEncodings
  exact ⟨fun _ => rfl, fun h => congrArg some (setWidth_result_toNat h), rfl, rfl,
    fun v => congrArg some (some_result_toNat v), rfl, fun i => congrArg some (setWidth_result_toNat i),
    fun b => congrArg some (bit_result_toNat b), fun b => congrArg some (bit_result_toNat b),
    fun h => congrArg some (setWidth_result_toNat h), rfl⟩

end Sys2Proof.Machine
end

section
/-! The ring buffer's commands and a run of pushes, and the ways a step can end the run: what COMMIT answers a consumer,
what a run of pushes leaves retained, which steps go on (40_ring_buffer.md R131, R138 to R140, 60_exceptions.md R304,
R324). -/

namespace Sys2Proof.Machine

/-! ## COMMIT -/

/-- COMMIT by the consumer while capture is active: the stale tail is tested first, then the range
(40_ring_buffer.md R138, R139). -/
theorem exec_commit_of_active {s : State} (hagent : s.agent = .consumer) (hactive : s.active = true) (et c : Byte) :
    (s.tail ≠ et.toNat ∧ exec (.commit et c) s = complete (.committed false) s)
      ∨ (s.tail = et.toNat ∧ s.size < c.toNat
          ∧ exec (.commit et c) s = .fault (.commitRange et.toNat c.toNat s.size))
      ∨ (s.tail = et.toNat ∧ c.toNat ≤ s.size
          ∧ exec (.commit et c) s = complete (.committed true) { s with tail := s.slotOf c.toNat }) := by
  simp only [exec, execCommit, requireAgent_of_eq hagent, requireActive_of_eq hactive]
  rcases commitTail_cases et.toNat c.toNat s with ⟨hne, e⟩ | ⟨heq, hlt, e⟩ | ⟨heq, hle, e⟩ <;> rw [e]
  · exact .inl ⟨hne, rfl⟩
  · exact .inr (.inl ⟨heq, hlt, rfl⟩)
  · exact .inr (.inr ⟨heq, hle, rfl⟩)

/-! ## A run of pushes -/

/-- A push drops only samples retained before it (40_ring_buffer.md R133). -/
theorem evicted_le {s : State} (hn : 2 ≤ s.cfg.n) : s.evicted ≤ s.size := by
  unfold State.evicted
  omega

/-- After a run of pushes the newest N - 1 samples are retained (40_ring_buffer.md R131): what a push drops off the front
is dropped as well when the later samples stand behind it. -/
theorem afterPushes_retained {s : State} (h : s.Inv) (d : Draw) (vs : List Word) :
    (s.afterPushes d vs).retained = (s.retained ++ vs).drop (s.size + vs.length - (s.cfg.n - 1)) := by
  induction vs generalizing s with
  | nil =>
    have hlt := h.size_lt
    rw [afterPushes_nil, List.append_nil, List.length_nil, Nat.sub_eq_zero_of_le (by omega), List.drop_zero]
  | cons v vs ih =>
    have hn := h.two_le_n
    have hev := evicted_le hn
    have hsize : (s.afterPush d v).size = s.size + 1 - s.evicted := pushSample_size h.head_lt h.tail_lt hn v
    have hret : (s.afterPush d v).retained = (s.retained ++ [v]).drop s.evicted :=
      pushSample_retained h.head_lt h.tail_lt hn v
    have hdropped : (s.retained ++ [v]).drop s.evicted ++ vs = (s.retained ++ v :: vs).drop s.evicted := by
      rw [← List.drop_append_of_le_length (by simp; omega), List.append_assoc, List.singleton_append]
    have hcount : s.evicted + (s.size + 1 - s.evicted + vs.length - (s.cfg.n - 1))
        = s.size + (vs.length + 1) - (s.cfg.n - 1) := by
      unfold State.evicted at hev ⊢
      omega
    calc ((s.afterPush d v).afterPushes d vs).retained
        = ((s.afterPush d v).retained ++ vs).drop ((s.afterPush d v).size + vs.length - (s.cfg.n - 1)) :=
          ih (afterPush_inv h d v)
      _ = (s.retained ++ v :: vs).drop (s.size + (v :: vs).length - (s.cfg.n - 1)) := by
          rw [hret, hsize, hdropped, List.drop_drop, hcount, List.length_cons]

/-- Where nothing but a run of pushes was to come, the consumer's turn follows it. -/
theorem afterPushes_consumersTurn {s : State} {d : Draw} {vs : List Word} (hin : s.inbox = pushEvents d vs) :
    (s.afterPushes d vs).consumersTurn :=
  .inl (by rw [afterPushes_inbox, hin, List.drop_eq_nil_of_le (by simp [pushEvents])])

/-- An index moved around a ring by a number of places that is not a multiple of its size has left its place. -/
theorem add_mod_ne_of_mod_ne_zero {a k n : Nat} (ha : a < n) (hk : k % n ≠ 0) : (a + k) % n ≠ a := by
  intro h
  have hback : a + k ≡ a [MOD n] := h.trans (Nat.mod_eq_of_lt ha).symm
  exact hk (Nat.mod_eq_zero_of_dvd (Nat.add_modEq_left_iff.1 hback))

/-! ## Which steps end the run -/

theorem requireAgent_next {k : StepResult} (a : Agent) (s : State) (h : ∃ t, k = .next t) :
    ∃ t, requireAgent a s k = .next t := by
  rcases requireAgent_cases a s k with ⟨-, e⟩ | ⟨-, e⟩ <;> rw [e]
  · exact h
  · exact ⟨_, rfl⟩

theorem requireActive_next {k : StepResult} (s : State) (h : ∃ t, k = .next t) :
    ∃ t, requireActive s k = .next t := by
  rcases requireActive_cases s k with ⟨-, e⟩ | ⟨-, e⟩ <;> rw [e]
  · exact h
  · exact ⟨_, rfl⟩

theorem requirePhaseIdle_next {k : StepResult} (s : State) (h : ∃ t, k = .next t) :
    ∃ t, requirePhaseIdle s k = .next t := by
  rcases requirePhaseIdle_cases s k with ⟨-, e⟩ | ⟨-, e⟩ <;> rw [e]
  · exact h
  · exact ⟨_, rfl⟩

/-- An operation answers a next state, a refusal of the spec included, or is a COMMIT of the consumer that faults
(60_exceptions.md R304, R305). -/
theorem exec_next_or_fault (i : Instr) (s : State) :
    (∃ t, exec i s = .next t) ∨
      ∃ et c, i = .commit et c ∧ s.agent = .consumer ∧ s.tail = et.toNat ∧ s.size < c.toNat
        ∧ exec i s = .fault (.commitRange et.toNat c.toNat s.size) := by
  cases i with
  | init =>
    refine .inl (requireAgent_next _ _ ?_)
    split_ifs <;> exact ⟨_, rfl⟩
  | teardown | poll => exact .inl (requireAgent_next _ _ (requireActive_next _ (requirePhaseIdle_next _ ⟨_, rfl⟩)))
  | edge l now =>
    refine .inl (requireAgent_next _ _ ?_)
    split_ifs <;> exact ⟨_, rfl⟩
  | push | peek | snap => exact .inl (requireAgent_next _ _ (requireActive_next _ ⟨_, rfl⟩))
  | commit et c =>
    by_cases hagent : s.agent = .consumer
    · rcases exec_commit_cases et c s with ⟨-, e⟩ | ⟨heq, hlt, e⟩ | ⟨-, -, e⟩ | ⟨r, e⟩
      · exact .inl ⟨_, e⟩
      · exact .inr ⟨et, c, rfl, hagent, heq, hlt, e⟩
      · exact .inl ⟨_, e⟩
      · exact .inl ⟨_, e⟩
    · exact .inl ⟨_, requireAgent_of_ne hagent _⟩
  | valid | parity | isnum | height => exact .inl ⟨_, rfl⟩

/-- A turn of the consumer answers a next state, or is an attempt's commit that faults (log 16). -/
theorem consumerStep_next_or_fault (s : State) :
    (∃ t, consumerStep s = .next t) ∨
      (s.phase = .commit ∧ s.tail = s.et ∧ s.size < s.p
        ∧ consumerStep s = .fault (.commitRange s.et s.p s.size)) := by
  rcases consumerStep_cases s with ⟨-, e⟩ | ⟨-, e⟩ | ⟨-, e⟩ | ⟨-, e⟩ | ⟨hp, e⟩ <;> rw [e]
  · exact .inl ⟨_, rfl⟩
  · exact .inl ⟨_, rfl⟩
  · rcases syncStep_cases s with ⟨-, e⟩ | ⟨-, -, e⟩ | ⟨-, -, e⟩ <;> exact .inl ⟨_, e⟩
  · rcases Nat.lt_or_ge (s.p + 1) s.size with hlt | hge
    · exact .inl ⟨_, bitsStep_consume hlt rfl⟩
    · exact .inl ⟨_, bitsStep_short hge⟩
  · rcases commitStep_cases s with ⟨-, e⟩ | ⟨heq, hlt, e⟩ | ⟨-, -, e⟩
    · exact .inl ⟨_, e⟩
    · exact .inr ⟨hp, heq, hlt, e⟩
    · exact .inl ⟨_, e⟩

/-- The next step is the consumer's, or it runs a command word for the agent that issued it. -/
theorem consumersTurn_or_command (s : State) :
    s.consumersTurn ∨
      ∃ a w d rest, s.inbox = .issue a w d :: rest ∧ step s = runWord w (s.taking rest a d) := by
  rcases step_cases s with ⟨hin, -⟩ | ⟨rest, hin, -⟩ | hcommand
  · exact .inl (.inl hin)
  · exact .inl (.inr (congrArg List.head? hin))
  · exact .inr hcommand

/-- A step answers a next state, or is one of the two commits that fault. -/
theorem step_next_or_fault (s : State) :
    (∃ t, step s = .next t)
      ∨ (s.consumersTurn ∧ s.phase = .commit ∧ s.tail = s.et ∧ s.size < s.p
          ∧ step s = .fault (.commitRange s.et s.p s.size))
      ∨ ∃ w d et c, s.inbox.head? = some (.issue .consumer w d) ∧ decode w = .ok (.commit et c)
          ∧ s.tail = et.toNat ∧ s.size < c.toNat ∧ step s = .fault (.commitRange et.toNat c.toNat s.size) := by
  rcases consumersTurn_or_command s with hturn | ⟨a, w, d, rest, hin, hword⟩
  · rw [step_of_consumersTurn hturn]
    exact (consumerStep_next_or_fault { s with inbox := s.inbox.tail }).imp_right fun hfault => .inl ⟨hturn, hfault⟩
  · rcases runWord_cases w (s.taking rest a d) with ⟨i, hdecode, hexec⟩ | ⟨_, -, hrefused⟩
    · rcases exec_next_or_fault i (s.taking rest a d) with ⟨t, e⟩ | ⟨et, c, rfl, rfl, heq, hlt, e⟩
      · exact .inl ⟨t, hword.trans (hexec.trans e)⟩
      · exact .inr (.inr ⟨w, d, et, c, congrArg List.head? hin, hdecode, heq, hlt, hword.trans (hexec.trans e)⟩)
    · exact .inl ⟨_, hword.trans hrefused⟩

end Sys2Proof.Machine
end

section
/-! Settled: the ring buffer (40_ring_buffer.md). -/

namespace Sys2Proof.Machine

/-! ## PUSH -/

/-- Settles O27: each clause is a field of the state after the push. -/
theorem pushStoresAtHead : Obligations.PushStoresAtHead := by
  unfold Obligations.PushStoresAtHead
  intro s v hagent hactive
  refine ⟨_, exec_push_of_active hagent hactive v, rfl, Memory.read_write_self _ _ _,
    fun k hk => Memory.read_write_other _ v hk, rfl, rfl, ?capture, ?decoder, ?context⟩
  case capture => exact ⟨rfl, rfl, rfl, rfl⟩
  case decoder => exact ⟨rfl, rfl, rfl, rfl, rfl, rfl, rfl, rfl, rfl⟩
  case context => exact ⟨rfl, rfl, rfl, rfl⟩

/-- Settles O29, by induction on the samples pushed. -/
theorem pushSequenceKeepsNewest : Obligations.PushSequenceKeepsNewest := by
  unfold Obligations.PushSequenceKeepsNewest
  intro s d vs hinv hactive hin
  have hrun := runSteps_pushes (rest := []) hactive (hin.trans (List.append_nil _).symm)
  have hsize : (s.afterPushes d vs).size < s.cfg.n := Nat.lt_of_lt_of_eq
    (State.size_lt (by rw [afterPushes_cfg]; exact Nat.zero_lt_of_lt hinv.head_lt)) (by rw [afterPushes_cfg])
  refine ⟨_, hrun, Nat.le_sub_one_of_lt hsize, ?_⟩
  rw [afterPushes_retained hinv, List.length_append, length_retained]

/-! ## COMMIT -/

/-- Settles O33: neither the stale tail nor the range stops it. -/
theorem commitAdvancesTail : Obligations.CommitAdvancesTail := by
  unfold Obligations.CommitAdvancesTail
  intro s et c hagent hactive htail hcount
  rcases exec_commit_of_active hagent hactive et c with ⟨hne, -⟩ | ⟨-, hlt, -⟩ | ⟨-, -, e⟩
  · exact absurd htail hne
  · exact absurd hcount (Nat.not_le.2 hlt)
  · exact e

/-- Settles O34: the stale tail is tested before the count. -/
theorem staleCommitChangesNothing : Obligations.StaleCommitChangesNothing := by
  unfold Obligations.StaleCommitChangesNothing
  intro s et c hagent hactive hstale
  rcases exec_commit_of_active hagent hactive et c with ⟨-, e⟩ | ⟨heq, -⟩ | ⟨heq, -⟩
  · exact e
  · exact absurd heq hstale
  · exact absurd heq hstale

/-- Settles O35: the tail is current, so the range is tested, and it fails. -/
theorem commitPastHeadFaults : Obligations.CommitPastHeadFaults := by
  unfold Obligations.CommitPastHeadFaults
  intro s et c hagent hactive htail hcount
  rcases exec_commit_of_active hagent hactive et c with ⟨hne, -⟩ | ⟨-, -, e⟩ | ⟨-, hle, -⟩
  · exact absurd htail hne
  · exact e
  · exact absurd hcount (Nat.not_lt.2 hle)

/-! ## Faults and races -/

/-- Settles O13: the two commits that fault are the attempt's own and the consumer's command. -/
theorem onlyFaultIsCommitRange : Obligations.OnlyFaultIsCommitRange := by
  unfold Obligations.OnlyFaultIsCommitRange
  intro s
  rcases step_next_or_fault s with ⟨t, e⟩ | ⟨-, hphase, heq, hlt, e⟩ | ⟨w, d, et, c, hin, hdecode, heq, hlt, e⟩ <;>
    rw [e]
  · exact ⟨nofun, nofun⟩
  · refine ⟨nofun, ?_⟩
    rintro _ ⟨⟩
    exact ⟨_, _, rfl, heq, hlt, .inl ⟨hphase, rfl, rfl⟩⟩
  · refine ⟨nofun, ?_⟩
    rintro _ ⟨⟩
    exact ⟨_, _, rfl, heq, hlt, .inr ⟨w, d, et, c, hin, hdecode, rfl, rfl⟩⟩

/-- Settles O55: the evictions leave TAIL off ET, and the attempt's commit finds it stale. -/
theorem evictionBeforeCommitLosesRace : Obligations.EvictionBeforeCommitLosesRace := by
  unfold Obligations.EvictionBeforeCommitLosesRace
  intro s d vs hinv hphase htail hfull hlen hin
  have hactive : s.active = true := hinv.poll_active (by simp [hphase])
  have hrun := runSteps_pushes (rest := []) hactive (hin.trans (List.append_nil _).symm)
  obtain ⟨-, hmoved⟩ := afterPushes_of_full hinv hfull d vs
  have hstale : (s.afterPushes d vs).tail ≠ (s.afterPushes d vs).et := by
    rw [hmoved, afterPushes_et, ← htail]
    exact add_mod_ne_of_mod_ne_zero hinv.tail_lt hlen
  obtain ⟨hlost, -, -⟩ :=
    commitStepEndsAttempt (s.afterPushes d vs) (afterPushes_consumersTurn hin) (by simpa using hphase)
  have hend := (runSteps_add hrun 1).trans ((runSteps_one _).trans (hlost hstale))
  exact ⟨_, hend, rfl, rfl, htail ▸ hmoved⟩

end Sys2Proof.Machine
end

section
/-! Settled: the edge handler (41_edge_capture.md). What an accepted and what a rejected edge do comes first, then the
statements. -/

namespace Sys2Proof.Machine

/-! ## The idle test and the sample it selects -/

/-- The idle test in the order of words (41_edge_capture.md R173). -/
theorem idleMarked_iff (c : Config.Params) (idle : Bool) (delta : Word) :
    idleMarked c idle delta = true ↔ idle = true ∨ c.idleThreshold < delta := by
  simp only [idleMarked, Bool.or_eq_true, decide_eq_true_eq, BitVec.lt_def]

/-- The sample an accepted edge records, IDLE and the delta put through the idle test first
(41_edge_capture.md R174). -/
theorem recordedSample_idleMarked (c : Config.Params) (idle : Bool) (delta : Word) :
    recordedSample c (idleMarked c idle delta) delta =
      if idle = true ∨ c.idleThreshold < delta then c.sentinel else delta := by
  simp only [recordedSample, idleMarked_iff]

/-- A delta above the threshold marks IDLE, so it is never the sample recorded (41_edge_capture.md R178). -/
theorem recordedSample_bounded (c : Config.Params) (idle : Bool) (delta : Word) :
    recordedSample c (idleMarked c idle delta) delta = c.sentinel ∨
      (recordedSample c (idleMarked c idle delta) delta).toNat ≤ c.idleThreshold.toNat := by
  rw [recordedSample_idleMarked]
  split
  case isTrue => exact .inl rfl
  case isFalse hunmarked => exact .inr (Nat.le_of_not_lt fun hlt => hunmarked (.inr hlt))

/-! ## The edge taken -/

/-- An edge of the level keyed to HEAD is pushed, clears IDLE and sets LAST_US (41_edge_capture.md R174, R175). -/
theorem takeEdge_of_eq {s : State} {l : Level} (h : l = edgeLevelFor s.cfg s.head) (now : Word) :
    takeEdge l now s =
      { pushSample (recordedSample s.cfg (idleMarked s.cfg s.idle (edgeDelta now s.lastUs))
          (edgeDelta now s.lastUs)) s with idle := false, lastUs := now } := by
  rcases takeEdge_cases l now s with ⟨-, e⟩ | ⟨hne, -⟩
  · exact e
  · exact absurd h hne

/-- An edge of the other level leaves its idle test and nothing else (41_edge_capture.md R176). -/
theorem takeEdge_of_ne {s : State} {l : Level} (h : l ≠ edgeLevelFor s.cfg s.head) (now : Word) :
    takeEdge l now s = { s with idle := idleMarked s.cfg s.idle (edgeDelta now s.lastUs) } := by
  rcases takeEdge_cases l now s with ⟨heq, -⟩ | ⟨-, e⟩
  · exact absurd heq h
  · exact e

/-- A slot an edge gives new content holds the sample recorded (41_edge_capture.md R174, R176). -/
theorem takeEdge_read_changed {s : State} {l : Level} {now : Word} {k : Nat} {v : Word}
    (h : (takeEdge l now s).buf.read k = some v) (hnew : s.buf.read k ≠ some v) :
    recordedSample s.cfg (idleMarked s.cfg s.idle (edgeDelta now s.lastUs)) (edgeDelta now s.lastUs) = v := by
  rcases takeEdge_cases l now s with ⟨-, e⟩ | ⟨-, e⟩ <;> rw [e] at h
  · replace h := (pushSample_read _ s k).symm.trans h
    split at h
    · exact Option.some.inj h
    · exact absurd h hnew
  · exact absurd h hnew

/-! ## EDGE as a command -/

/-- EDGE by the producer while capture is active (41_edge_capture.md R170). -/
theorem exec_edge_of_active {s : State} (hagent : s.agent = .producer) (hactive : s.active = true) (l : Level)
    (now : Word) : exec (.edge l now) s = complete .noValue (takeEdge l now s) := by
  simp only [exec, execEdge, requireAgent_of_eq hagent, if_pos hactive]

/-- Settles O24: new content of a slot is the sample recorded, and the idle test bounds that sample. -/
theorem recordedSampleIsBounded : Obligations.RecordedSampleIsBounded := by
  unfold Obligations.RecordedSampleIsBounded
  intro s t lvl now k v hedge hread hnew
  rcases exec_edge_cases lvl now s with e | ⟨r, e⟩ <;> rw [e] at hedge <;> cases hedge
  · rw [← takeEdge_read_changed hread hnew]
    exact recordedSample_bounded ..
  · exact absurd hread hnew

/-- Settles O21: the edge taken is a push of the sample recorded, with IDLE and LAST_US updated. -/
theorem acceptedEdgeRecordsSample : Obligations.AcceptedEdgeRecordsSample := by
  unfold Obligations.AcceptedEdgeRecordsSample
  intro s lvl now hagent hactive hlvl
  have hexec := exec_edge_of_active hagent hactive lvl now
  rw [takeEdge_of_eq hlvl, recordedSample_idleMarked] at hexec
  refine ⟨_, hexec, rfl, Memory.read_write_self _ _ _, fun k hk => Memory.read_write_other _ _ hk, rfl, rfl, rfl, rfl,
    rfl, rfl, ?decoder, ?context⟩
  case decoder => exact ⟨rfl, rfl, rfl, rfl, rfl, rfl, rfl, rfl, rfl⟩
  case context => exact ⟨rfl, rfl, rfl, rfl⟩

/-- Settles O22: the edge taken is the state with IDLE as the idle test leaves it. -/
theorem rejectedEdgeOnlyMarksIdle : Obligations.RejectedEdgeOnlyMarksIdle := by
  unfold Obligations.RejectedEdgeOnlyMarksIdle
  intro s lvl now hagent hactive hlvl
  have hexec := exec_edge_of_active hagent hactive lvl now
  rw [takeEdge_of_ne hlvl] at hexec
  refine ⟨_, hexec, rfl, idleMarked_iff .., ?ring, rfl, rfl, rfl, ?decoder, ?context⟩
  case ring => exact ⟨rfl, rfl, fun _ => rfl⟩
  case decoder => exact ⟨rfl, rfl, rfl, rfl, rfl, rfl, rfl, rfl, rfl⟩
  case context => exact ⟨rfl, rfl, rfl, rfl⟩

/-- Settles O23: the producer may issue the edge, and the handler is not installed. -/
theorem edgeWhileInactiveIsNoOp : Obligations.EdgeWhileInactiveIsNoOp := by
  unfold Obligations.EdgeWhileInactiveIsNoOp
  intro s lvl now hagent hinactive
  simp only [exec, execEdge, requireAgent_of_eq hagent, hinactive, Bool.false_eq_true, if_false, State.reporting]

end Sys2Proof.Machine
end

section
/-! A decode attempt: what a command can do to it, how many turns it has left, and what it comes to when nothing
interrupts it (42_frame_decoder.md R214, R216, R223, R224). -/

namespace Sys2Proof.Machine

/-! ## Commands while a POLL is in progress -/

/-- The next states the command word `w` can lead to while a POLL is in progress: INIT, TEARDOWN and POLL are refused
then, and TAIL is moved past samples by a COMMIT alone (60_exceptions.md R305). -/
inductive CommandDuringPoll (s : State) (w : CmdWord) : State → Prop
  | reports (r : Report) : CommandDuringPoll s w (s.reporting r)
  | captures (l : Level) (now : Word) (r : Report) : CommandDuringPoll s w ((takeEdge l now s).reporting r)
  | pushes (v : Word) (r : Report) : CommandDuringPoll s w ((pushSample v s).reporting r)
  | commits (et c : Byte) (r : Report) (isCommit : decode w = .ok (.commit et c)) :
      CommandDuringPoll s w ({ s with tail := s.slotOf c.toNat }.reporting r)

/-- INIT is refused while capture is active (60_exceptions.md R306 check 3). -/
theorem exec_init_of_active {s : State} (hactive : s.active = true) : ∃ r, exec .init s = .next (s.reporting r) := by
  simp only [exec, execInit, hactive, if_true]
  rcases requireAgent_cases .host s (refuse .alreadyActive s) with ⟨-, e⟩ | ⟨-, e⟩ <;> exact ⟨_, e⟩

/-- What needs PH_IDLE is refused while a POLL is in progress (60_exceptions.md R306 check 4). -/
theorem requirePhaseIdle_of_busy {s : State} (hbusy : s.phase ≠ .idle) (a : Agent) (k : StepResult) :
    ∃ r, requireAgent a s (requireActive s (requirePhaseIdle s k)) = .next (s.reporting r) := by
  simp only [requirePhaseIdle, if_neg hbusy, requireActive, requireAgent]
  split_ifs <;> exact ⟨_, rfl⟩

/-- PUSH pushes, or is refused (40_ring_buffer.md R132). -/
theorem exec_push_cases (v : Word) (s : State) :
    exec (.push v) s = complete .noValue (pushSample v s) ∨ ∃ r, exec (.push v) s = .next (s.reporting r) := by
  simp only [exec, execPush, requireAgent, requireActive]
  split_ifs
  · exact .inl rfl
  · exact .inr ⟨_, rfl⟩
  · exact .inr ⟨_, rfl⟩

/-- SNAP only reports (40_ring_buffer.md R137). -/
theorem exec_snap_reports (s : State) : ∃ r, exec .snap s = .next (s.reporting r) := by
  simp only [exec, execSnap, requireAgent, requireActive]
  split_ifs <;> exact ⟨_, rfl⟩

/-- Every operation issued while a POLL is in progress answers as one of these effects says. -/
theorem exec_duringPoll {s t : State} {w : CmdWord} {i : Instr} (hactive : s.active = true) (hbusy : s.phase ≠ .idle)
    (hdecode : decode w = .ok i) (h : exec i s = .next t) : CommandDuringPoll s w t := by
  have reported (hr : ∃ r, exec i s = .next (s.reporting r)) : CommandDuringPoll s w t := by
    obtain ⟨r, e⟩ := hr
    cases e.symm.trans h
    exact .reports r
  cases i with
  | init => exact reported (exec_init_of_active hactive)
  | teardown | poll => exact reported (requirePhaseIdle_of_busy hbusy _ _)
  | edge l now =>
    rcases exec_edge_cases l now s with e | hr
    · cases e.symm.trans h
      exact .captures l now _
    · exact reported hr
  | push v =>
    rcases exec_push_cases v s with e | hr
    · cases e.symm.trans h
      exact .pushes v _
    · exact reported hr
  | peek off =>
    rcases exec_peek_cases off s with ⟨-, e⟩ | ⟨_, e⟩
    · exact reported ⟨_, e⟩
    · exact reported ⟨_, e⟩
  | snap => exact reported (exec_snap_reports s)
  | commit et c =>
    rcases exec_commit_cases et c s with ⟨-, e⟩ | ⟨-, -, e⟩ | ⟨-, -, e⟩ | ⟨_, e⟩
    · exact reported ⟨_, e⟩
    · cases e.symm.trans h
    · cases e.symm.trans h
      exact .commits et c _ hdecode
    · exact reported ⟨_, e⟩
  | valid | parity | isnum | height => exact reported ⟨_, rfl⟩

/-- A step while a POLL is in progress is a turn of the consumer, or a command that leaves the attempt where it was. -/
theorem step_duringPoll {s t : State} (h : s.Inv) (hbusy : s.phase ≠ .idle) (hstep : step s = .next t) :
    (s.consumersTurn ∧ ConsumerEffect { s with inbox := s.inbox.tail } t) ∨
      ∃ a w d rest, s.inbox = .issue a w d :: rest ∧ CommandDuringPoll (s.taking rest a d) w t := by
  rcases consumersTurn_or_command s with hturn | ⟨a, w, d, rest, hin, hword⟩
  · exact .inl ⟨hturn, consumerStep_effect (step_of_consumersTurn hturn ▸ hstep)⟩
  · refine .inr ⟨a, w, d, rest, hin, ?_⟩
    rw [hword] at hstep
    rcases runWord_cases w (s.taking rest a d) with ⟨i, hdecode, e⟩ | ⟨_, -, e⟩ <;> rw [e] at hstep
    · exact exec_duringPoll (h.poll_active hbusy) hbusy hdecode hstep
    · cases hstep
      exact .reports _

/-- An edge writes no register of the decoder, no parameter and nothing that came with its command
(60_exceptions.md R313). -/
theorem takeEdge_frame (l : Level) (now : Word) (s : State) :
    SameDecoder s (takeEdge l now s) ∧ SameContext s (takeEdge l now s) := by
  rcases takeEdge_cases l now s with ⟨-, e⟩ | ⟨-, e⟩ <;> rw [e] <;>
    exact ⟨⟨rfl, rfl, rfl, rfl, rfl, rfl, rfl, rfl, rfl⟩, rfl, rfl, rfl, rfl⟩

/-- A command leaves the attempt in progress where it was (60_exceptions.md R313). -/
theorem CommandDuringPoll.frame {s t : State} {w : CmdWord} (effect : CommandDuringPoll s w t) :
    SameDecoder s t ∧ SameContext s t := by
  cases effect with
  | captures l now => exact takeEdge_frame l now s
  | reports | pushes | commits => exact ⟨⟨rfl, rfl, rfl, rfl, rfl, rfl, rfl, rfl, rfl⟩, rfl, rfl, rfl, rfl⟩

/-- A push retains at least as many samples as before (40_ring_buffer.md R133). -/
theorem size_le_pushSample {s : State} (h : s.Inv) (v : Word) : s.size ≤ (pushSample v s).size := by
  have hlt := h.size_lt
  rw [pushSample_size h.head_lt h.tail_lt h.two_le_n]
  unfold State.evicted
  omega

/-- An edge retains at least as many samples as before, accepted or not. -/
theorem size_le_takeEdge {s : State} (h : s.Inv) (l : Level) (now : Word) : s.size ≤ (takeEdge l now s).size := by
  rcases takeEdge_cases l now s with ⟨-, e⟩ | ⟨-, e⟩ <;> rw [e]
  · exact size_le_pushSample h
      (recordedSample s.cfg (idleMarked s.cfg s.idle (edgeDelta now s.lastUs)) (edgeDelta now s.lastUs))
  · exact le_rfl

/-- Only a COMMIT retires samples (10_state.md R51). -/
theorem CommandDuringPoll.size_le {s t : State} {w : CmdWord} (h : s.Inv) (effect : CommandDuringPoll s w t)
    (hno : ∀ et c, decode w ≠ .ok (.commit et c)) : s.size ≤ t.size := by
  cases effect with
  | reports r => exact le_rfl
  | captures l now r => exact size_le_takeEdge h l now
  | pushes v r => exact size_le_pushSample h v
  | commits et c r isCommit => exact absurd isCommit (hno et c)

/-! ## The scan position -/

/-- A turn of the consumer scans retained offsets only (42_frame_decoder.md R216). -/
theorem ConsumerEffect.scanRetained {s t : State} (effect : ConsumerEffect s t) : t.ScanRetained := by
  cases effect with
  | waits hp => exact fun h => by simp [hp] at h
  | findsMarker _ hq => exact fun _ => hq
  | emits b w k _ hsize => exact fun _ => Nat.lt_of_lt_of_le hsize le_rfl
  | passesOver hp => exact fun h => by simp [hp] at h
  | snaps | findsNoSync | runsShort | losesRace | commits => exact fun h => by simp at h

/-- A command that is no COMMIT does not take the scan position off the retained samples. -/
theorem CommandDuringPoll.scanRetained {s t : State} {w : CmdWord} (h : s.Inv) (hscan : s.ScanRetained)
    (effect : CommandDuringPoll s w t) (hno : ∀ et c, decode w ≠ .ok (.commit et c)) : t.ScanRetained := by
  obtain ⟨hphase, -, -, -, hp, -⟩ := effect.frame.1
  intro hscanning
  rw [hphase] at hscanning
  rw [hp]
  exact Nat.lt_of_lt_of_le (hscan hscanning) (effect.size_le h hno)

/-- With no POLL in progress a command starts one at most. -/
theorem CommandEffect.scanRetained_of_idle {s t : State} (hidle : s.phase = .idle) (effect : CommandEffect s t) :
    t.ScanRetained := by
  cases effect with
  | captures l now r =>
    obtain ⟨⟨hphase, -⟩, -⟩ := takeEdge_frame l now s
    exact fun h => by simp [hphase, hidle] at h
  | reports | starts | stops | polls | pushes | commits => exact fun h => by simp [hidle] at h

/-- A step that is no COMMIT command keeps the scan position on a retained sample (42_frame_decoder.md R216). -/
theorem scanRetained_of_step {s t : State} (h : s.Inv) (hscan : s.ScanRetained)
    (hno : ∀ a w d et c, s.inbox.head? = some (.issue a w d) → decode w ≠ .ok (.commit et c))
    (hstep : step s = .next t) : t.ScanRetained := by
  by_cases hidle : s.phase = .idle
  · rcases step_effect hstep with ⟨-, effect⟩ | ⟨a, w, d, rest, -, effect⟩
    · exact effect.scanRetained
    · exact CommandEffect.scanRetained_of_idle (s := s.taking rest a d) hidle effect
  · rcases step_duringPoll h hidle hstep with ⟨-, effect⟩ | ⟨a, w, d, rest, hin, effect⟩
    · exact effect.scanRetained
    · exact effect.scanRetained (h.taking rest a d) hscan fun et c => hno a w d et c (congrArg List.head? hin)

/-- Such a step does not fault: the count of the attempt's own commit is the scan position. -/
theorem step_next_of_scanRetained {s : State} (hscan : s.ScanRetained)
    (hno : ∀ a w d et c, s.inbox.head? = some (.issue a w d) → decode w ≠ .ok (.commit et c)) :
    ∃ t, step s = .next t := by
  rcases step_next_or_fault s with hnext | ⟨-, hphase, -, hlt, -⟩ | ⟨w, d, et, c, hin, hdecode, -⟩
  · exact hnext
  · exact absurd (hscan (.inr hphase)) hlt.asymm
  · exact absurd hdecode (hno _ w d et c hin)

/-! ## The turns an attempt has left -/

/-- A bound on the turns of the consumer until the attempt in progress ends: one for the snapshot, then one for each
offset below N that is still to be read or committed (42_frame_decoder.md R224). -/
def State.turnsLeft (s : State) : Nat :=
  match s.phase with
  | .idle => 0
  | .snap => s.cfg.n + 1
  | .sync => s.cfg.n - s.q
  | .bits => s.cfg.n - 1 - s.p
  | .commit => s.cfg.n - 1 - s.p

theorem turnsLeft_of_idle {s : State} (h : s.phase = .idle) : s.turnsLeft = 0 := by simp only [State.turnsLeft, h]

theorem turnsLeft_of_snap {s : State} (h : s.phase = .snap) : s.turnsLeft = s.cfg.n + 1 := by
  simp only [State.turnsLeft, h]

theorem turnsLeft_of_sync {s : State} (h : s.phase = .sync) : s.turnsLeft = s.cfg.n - s.q := by
  simp only [State.turnsLeft, h]

theorem turnsLeft_of_scanning {s : State} (h : s.phase = .bits ∨ s.phase = .commit) :
    s.turnsLeft = s.cfg.n - 1 - s.p := by
  rcases h with h | h <;> simp only [State.turnsLeft, h]

theorem turnsLeft_pos {s : State} (h : s.Inv) (hbusy : s.phase ≠ .idle) : 0 < s.turnsLeft := by
  cases hp : s.phase with
  | idle => exact absurd hp hbusy
  | snap => rw [turnsLeft_of_snap hp]; omega
  | sync => rw [turnsLeft_of_sync hp]; have := h.q_lt hp; omega
  | bits => rw [turnsLeft_of_scanning (.inl hp)]; have := h.p_lt (.inl hp); omega
  | commit => rw [turnsLeft_of_scanning (.inr hp)]; have := h.p_lt (.inr hp); omega

/-- A turn of the consumer uses up one of the turns left (42_frame_decoder.md R224). -/
theorem ConsumerEffect.turnsLeft_lt {s t : State} (h : s.Inv) (hbusy : s.phase ≠ .idle) (effect : ConsumerEffect s t) :
    t.turnsLeft < s.turnsLeft := by
  have hpos := turnsLeft_pos h hbusy
  have hsize := h.size_lt
  cases effect with
  | waits hp => exact absurd hp hbusy
  | snaps hp =>
    rw [turnsLeft_of_snap hp, turnsLeft_of_sync rfl]
    exact Nat.lt_succ_self _
  | findsMarker hp hq =>
    rw [turnsLeft_of_sync hp, turnsLeft_of_scanning (.inl rfl)]
    simp only [State.reporting_cfg, State.reporting_p]
    omega
  | passesOver hp hq =>
    rw [turnsLeft_of_sync hp, turnsLeft_of_sync (by exact hp)]
    simp only [State.reporting_cfg, State.reporting_q]
    omega
  | emits b w k hp hq =>
    rw [turnsLeft_of_scanning (.inl hp), turnsLeft_of_scanning (by simp only [State.reporting_phase]; split <;> simp)]
    simp only [State.reporting_cfg, State.reporting_p]
    omega
  | findsNoSync | runsShort | losesRace | commits => rwa [turnsLeft_of_idle rfl]

/-- A command uses up none of the turns left. -/
theorem CommandDuringPoll.turnsLeft_eq {s t : State} {w : CmdWord} (effect : CommandDuringPoll s w t) :
    t.turnsLeft = s.turnsLeft := by
  obtain ⟨⟨hphase, -, hq, -, hp, -⟩, hcfg, -⟩ := effect.frame
  simp only [State.turnsLeft, hphase, hq, hp, hcfg]

/-! ## Turns of the consumer among the steps of a run -/

theorem consumerTurns_of_consumersTurn {s : State} (h : s.consumersTurn) (k : Nat) :
    consumerTurns s.inbox (k + 1) = consumerTurns s.inbox.tail k + 1 := by
  rcases hin : s.inbox with _ | ⟨e, rest⟩
  · simp [consumerTurns]
  · obtain rfl : e = .tick := by simpa [State.consumersTurn, hin] using h
    simp [consumerTurns, Nat.add_right_comm]

theorem consumerTurns_of_issue (a : Agent) (w : CmdWord) (d : Draw) (rest : List Event) (k : Nat) :
    consumerTurns (.issue a w d :: rest) (k + 1) = consumerTurns rest k := by
  simp [consumerTurns]

/-- A run of at least one step begins with a step that goes on. -/
theorem runSteps_succ_next {s t : State} {k : Nat} (h : runSteps (k + 1) s = .next t) :
    ∃ u, step s = .next u ∧ runSteps k u = .next t := by
  rcases hstep : step s with u | f | r
  · exact ⟨u, rfl, (runSteps_of_next hstep k).symm.trans h⟩
  · cases (run_of_fault (M := Sys2Proof.core) hstep k).symm.trans h
  · cases (run_of_refused (M := Sys2Proof.core) hstep k).symm.trans h

theorem ConsumerEffect.context_eq {s t : State} (effect : ConsumerEffect s t) : SameContext s t := by
  cases effect <;> exact ⟨rfl, rfl, rfl, rfl⟩

/-- A step while a POLL is in progress uses up a turn left if it is the consumer's and none if it is a command. -/
theorem step_turnsLeft {s t : State} {k : Nat} (h : s.Inv) (hbusy : s.phase ≠ .idle) (hstep : step s = .next t)
    (hturns : s.turnsLeft ≤ consumerTurns s.inbox (k + 1)) : t.turnsLeft ≤ consumerTurns t.inbox k := by
  rcases step_duringPoll h hbusy hstep with ⟨hturn, effect⟩ | ⟨a, w, d, rest, hin, effect⟩
  · have hlt : t.turnsLeft < s.turnsLeft :=
      ConsumerEffect.turnsLeft_lt (s := { s with inbox := s.inbox.tail }) (h.withInbox s.inbox.tail) hbusy effect
    obtain ⟨-, hinbox, -⟩ := effect.context_eq
    rw [consumerTurns_of_consumersTurn hturn] at hturns
    rw [hinbox]
    exact Nat.le_of_lt_succ (Nat.lt_of_lt_of_le hlt hturns)
  · obtain ⟨-, -, hinbox, -⟩ := effect.frame
    rw [hin, consumerTurns_of_issue] at hturns
    rw [hinbox, effect.turnsLeft_eq]
    exact hturns

/-- A run that gives the attempt in progress the turns it has left passes through PH_IDLE
(42_frame_decoder.md R224). -/
theorem reaches_idle_of_turns {s t : State} {k : Nat} (h : s.Inv) (hrun : runSteps k s = .next t)
    (hturns : s.turnsLeft ≤ consumerTurns s.inbox k) :
    ∃ j u, j ≤ k ∧ runSteps j s = .next u ∧ u.phase = .idle := by
  induction k generalizing s with
  | zero =>
    refine ⟨0, s, le_rfl, rfl, by_contra fun hbusy => ?_⟩
    have hpos := turnsLeft_pos h hbusy
    simp only [consumerTurns, List.take_zero, List.countP_nil, Nat.zero_sub] at hturns
    omega
  | succ k ih =>
    by_cases hidle : s.phase = .idle
    · exact ⟨0, s, Nat.zero_le _, rfl, hidle⟩
    · obtain ⟨v, hstep, hrest⟩ := runSteps_succ_next hrun
      obtain ⟨j, u, hj, hu, huidle⟩ := ih (h.of_step hstep) hrest (step_turnsLeft h hidle hstep hturns)
      exact ⟨j + 1, u, Nat.succ_le_succ hj, (runSteps_of_next hstep j).trans hu, huidle⟩

end Sys2Proof.Machine
end

section
/-! The bits of a frame: what the emitting loop leaves, which interval each bit is sampled from, and what ideal timing
makes of a frame (42_frame_decoder.md R205, R209 to R213, R225, R226). -/

namespace Sys2Proof.Machine

/-! ## Shifting bits in -/

theorem shiftIn_toNat (w : Word) (b : Bool) : (shiftIn w b).toNat = (w.toNat * 2 + b.toNat) % 2 ^ 32 := by
  have hbit : (if b then 1 else 0 : Word).toNat = b.toNat := by cases b <;> rfl
  rw [shiftIn, BitVec.toNat_add, hbit, BitVec.toNat_shiftLeft, Nat.shiftLeft_eq, Nat.mod_add_mod, pow_one]

/-- The bit shifted in stands at bit 0 (42_frame_decoder.md R210). -/
theorem shiftIn_getLsbD_zero (w : Word) (b : Bool) : (shiftIn w b).getLsbD 0 = b := by
  rw [← BitVec.testBit_toNat, shiftIn_toNat, Nat.testBit_mod_two_pow, decide_eq_true (by decide), Bool.true_and,
    Nat.testBit_zero]
  cases b <;> simp

/-- Every other bit moves up by one place. -/
theorem shiftIn_getLsbD_succ (w : Word) (b : Bool) {i : Nat} (hi : i + 1 < 32) :
    (shiftIn w b).getLsbD (i + 1) = w.getLsbD i := by
  have hdiv : (w.toNat * 2 + b.toNat) / 2 = w.toNat := by have := b.toNat_lt; omega
  rw [← BitVec.testBit_toNat, shiftIn_toNat, Nat.testBit_mod_two_pow, decide_eq_true hi, Bool.true_and,
    Nat.testBit_succ, hdiv, BitVec.testBit_toNat]

/-- `m` bits of one value shifted in at bit 0. -/
def shiftInMany (w : Word) (b : Bool) (m : Nat) : Word :=
  BitVec.ofNat 32 (w.toNat * 2 ^ m + if b then 2 ^ m - 1 else 0)

theorem shiftInMany_zero (w : Word) (b : Bool) : shiftInMany w b 0 = w := by
  simp [shiftInMany]

/-- Shifting many bits in is shifting them in one after the other. -/
theorem shiftInMany_succ (w : Word) (b : Bool) (m : Nat) :
    shiftInMany (shiftIn w b) b m = shiftInMany w b (m + 1) := by
  refine BitVec.eq_of_toNat_eq ?_
  simp only [shiftInMany, BitVec.toNat_ofNat, shiftIn_toNat]
  rw [Nat.add_mod, Nat.mod_mul_mod, ← Nat.add_mod]
  congr 1
  have hpos : 0 < 2 ^ m := Nat.two_pow_pos m
  cases b
  · simp only [Bool.toNat_false, Bool.false_eq_true, if_false, pow_succ]
    ring
  · simp only [Bool.toNat_true, if_true, pow_succ]
    zify [show 1 ≤ 2 ^ m from hpos, show 1 ≤ 2 ^ m * 2 by omega]
    ring

/-! ## The emitting loop -/

/-- How many bits the emitting loop shifts in: as many as the budget completes, and no more than a frame still wants
(42_frame_decoder.md R211). -/
def bitsEmitted (c : Config.Params) (b k : Nat) : Nat := min (32 - k) (b / c.bp)

/-- The loop emits all these bits when it has a turn for each bit still wanted. -/
theorem emitBits_eq {c : Config.Params} (hbp : 1 ≤ c.bp) (l : Level) {fuel k : Nat} (hfuel : 32 ≤ k + fuel) (b : Nat)
    (w : Word) :
    emitBits c l fuel (b, w, k) =
      (b - bitsEmitted c b k * c.bp, shiftInMany w (bitOf c l) (bitsEmitted c b k), k + bitsEmitted c b k) := by
  induction fuel generalizing b w k with
  | zero =>
    have hnone : bitsEmitted c b k = 0 := by rw [bitsEmitted, Nat.sub_eq_zero_of_le (by omega), Nat.zero_min]
    rw [hnone, shiftInMany_zero, Nat.zero_mul]
    rfl
  | succ fuel ih =>
    rw [emitBits_succ]
    split
    case isTrue hgo =>
      obtain ⟨hb, hk⟩ := hgo
      have hone : bitsEmitted c b k = bitsEmitted c (b - c.bp) (k + 1) + 1 := by
        change k < 32 at hk
        unfold bitsEmitted
        rw [Nat.div_eq_sub_div hbp hb]
        generalize (b - c.bp) / c.bp = d
        omega
      rw [ih (by omega), hone, shiftInMany_succ, Nat.succ_mul, Nat.sub_sub, Nat.add_comm c.bp, Nat.add_assoc k,
        Nat.add_comm 1]
    case isFalse hstop =>
      have hnone : bitsEmitted c b k = 0 := by
        change ¬(c.bp ≤ b ∧ k < 32) at hstop
        unfold bitsEmitted
        rcases Nat.lt_or_ge b c.bp with hb | hb
        · rw [Nat.div_eq_of_lt hb, Nat.min_zero]
        · rw [Nat.sub_eq_zero_of_le (by omega), Nat.zero_min]
      rw [hnone, shiftInMany_zero, Nat.zero_mul]
      rfl

/-! ## The turns of the reconstruction loop -/

section RebuildFrame

variable {c : Config.Params} {l : Level} {budget k : Nat}

/-- With 32 bits the loop answers the frame and the last offset consumed (42_frame_decoder.md R211). -/
theorem rebuildFrame_done (c : Config.Params) (fuel : Nat) (l : Level) (budget p : Nat) (w : Word)
    (samples : List Word) : rebuildFrame c (fuel + 1) l budget 32 p w samples = some (w, p) := if_pos rfl

/-- With 32 bits that is all it can answer, whatever its bound. -/
theorem rebuildFrame_of_full {fuel p last : Nat} {w w' : Word} {samples : List Word}
    (h : rebuildFrame c fuel l budget 32 p w samples = some (w', last)) : w' = w ∧ last = p := by
  cases fuel with
  | zero => cases h
  | succ fuel =>
    rw [rebuildFrame_done] at h
    cases h
    exact ⟨rfl, rfl⟩

/-- Below a bit-period of budget, with no sample left, the frame is cut short (42_frame_decoder.md R212). -/
theorem rebuildFrame_short (hk : k < 32) (hb : budget < c.bp) (fuel p : Nat) (w : Word) :
    rebuildFrame c (fuel + 1) l budget k p w [] = none :=
  (if_neg (Nat.ne_of_lt hk)).trans (if_pos hb)

/-- Below a bit-period of budget it consumes the next sample and flips the level (42_frame_decoder.md R209). -/
theorem rebuildFrame_consume (hk : k < 32) (hb : budget < c.bp) (fuel p : Nat) (w v : Word) (rest : List Word) :
    rebuildFrame c (fuel + 1) l budget k p w (v :: rest)
      = rebuildFrame c fuel l.flip (budget + v.toNat) k (p + 1) w rest :=
  (if_neg (Nat.ne_of_lt hk)).trans (if_pos hb)

/-- From a bit-period of budget on it emits a bit of the level (42_frame_decoder.md R210). -/
theorem rebuildFrame_emit (hk : k < 32) (hb : c.bp ≤ budget) (fuel p : Nat) (w : Word) (samples : List Word) :
    rebuildFrame c (fuel + 1) l budget k p w samples
      = rebuildFrame c fuel l (budget - c.bp) (k + 1) p (shiftIn w (bitOf c l)) samples :=
  (if_neg (Nat.ne_of_lt hk)).trans (if_neg (Nat.not_lt.2 hb))

end RebuildFrame

/-! ## Sample instants -/

/-- The first interval from offset `p` on that ends at or after the sample instant of bit `n` is the one at offset `j`:
`elapsed` is half a bit-period more than the time from the sync high pulse to the end of interval `p`, and `samples`
follow that interval (42_frame_decoder.md R208, R225). -/
def SampledBy (c : Config.Params) (elapsed p : Nat) (samples : List Word) (n j : Nat) : Prop :=
  (n + 1) * c.bp ≤ elapsed + ((samples.take (j - p)).map BitVec.toNat).sum
    ∧ ∀ i, p ≤ i → i < j → elapsed + ((samples.take (i - p)).map BitVec.toNat).sum < (n + 1) * c.bp

theorem sampledBy_self {c : Config.Params} {elapsed n : Nat} (h : (n + 1) * c.bp ≤ elapsed) (p : Nat)
    (samples : List Word) : SampledBy c elapsed p samples n p :=
  ⟨Nat.le_add_right_of_le h, fun _ hle hlt => absurd hlt (Nat.not_lt.2 hle)⟩

/-- The sum of the first samples, the first one apart. -/
theorem sum_take_cons (v : Word) (rest : List Word) {i p : Nat} (h : p < i) :
    (((v :: rest).take (i - p)).map BitVec.toNat).sum
      = v.toNat + ((rest.take (i - (p + 1))).map BitVec.toNat).sum := by
  obtain ⟨d, rfl⟩ := Nat.exists_eq_add_of_lt h
  simp [Nat.add_assoc, show p + (d + 1) - (p + 1) = d by omega]

/-- An interval that ends before the instant is passed over. -/
theorem SampledBy.cons {c : Config.Params} {elapsed p n j : Nat} {v : Word} {rest : List Word}
    (h : SampledBy c (elapsed + v.toNat) (p + 1) rest n j) (hj : p < j) (helapsed : elapsed < (n + 1) * c.bp) :
    SampledBy c elapsed p (v :: rest) n j := by
  obtain ⟨hend, hfirst⟩ := h
  refine ⟨by rw [sum_take_cons v rest hj]; omega, fun i hpi hij => ?_⟩
  rcases Nat.eq_or_lt_of_le hpi with rfl | hlt
  · simpa using helapsed
  · have := hfirst i hlt hij
    rw [sum_take_cons v rest hlt]
    omega

/-- The level of the next slot's interval is the other one, N being even (10_state.md R40). -/
theorem intervalLevel_succ {c : Config.Params} (hn : c.n % 2 = 0) (k : Nat) :
    intervalLevel c ((k + 1) % c.n) = (intervalLevel c (k % c.n)).flip := by
  rw [intervalLevel, intervalLevel, ← Nat.mod_add_mod k c.n 1, edgeLevelFor_succ hn]

/-- What the loop makes of the frame begun in `word`: the `k` bits it has already stay, in their order, and every further
bit is that of the level of the interval its instant samples, which for the last bit is the last interval consumed. -/
structure SamplesFrame (c : Config.Params) (et elapsed k p : Nat) (word : Word) (samples : List Word) (w : Word)
    (last : Nat) : Prop where
  le_last : p ≤ last
  kept : ∀ n, n < k → w.getLsbD (31 - n) = word.getLsbD (k - 1 - n)
  sampled : ∀ n, k ≤ n → n < 32 → ∃ j, p ≤ j ∧ j ≤ last ∧ SampledBy c elapsed p samples n j
    ∧ w.getLsbD (31 - n) = bitOf c (intervalLevel c ((et + j) % c.n)) ∧ (n = 31 → j = last)

/-- Consuming interval `p + 1`: it holds after, so it held before, the budget being below a bit-period. -/
theorem SamplesFrame.consume {c : Config.Params} {et budget k p last : Nat} {word v w : Word} {rest : List Word}
    (hb : budget < c.bp) (h : SamplesFrame c et (budget + v.toNat + k * c.bp) k (p + 1) word rest w last) :
    SamplesFrame c et (budget + k * c.bp) k p word (v :: rest) w last where
  le_last := Nat.le_of_succ_le h.le_last
  kept := h.kept
  sampled n hkn hn32 := by
    obtain ⟨j, hpj, hjl, hby, hbit, hlast⟩ := h.sampled n hkn hn32
    have hbefore : budget + k * c.bp < (n + 1) * c.bp := calc
      budget + k * c.bp < (k + 1) * c.bp := by rw [Nat.succ_mul]; omega
      _ ≤ (n + 1) * c.bp := Nat.mul_le_mul_right _ (Nat.succ_le_succ hkn)
    rw [Nat.add_right_comm] at hby
    exact ⟨j, Nat.le_of_succ_le hpj, hjl, hby.cons hpj hbefore, hbit, hlast⟩

/-- Emitting bit `k` at interval `p`: it holds after, so it held before; the last bit is emitted at the last interval
consumed. -/
theorem SamplesFrame.emit {c : Config.Params} {et budget k p last : Nat} {word w : Word} {samples : List Word}
    (hk : k < 32) (hb : c.bp ≤ budget) (hlast : k = 31 → p = last)
    (h : SamplesFrame c et (budget - c.bp + (k + 1) * c.bp) (k + 1) p
      (shiftIn word (bitOf c (intervalLevel c ((et + p) % c.n)))) samples w last) :
    SamplesFrame c et (budget + k * c.bp) k p word samples w last := by
  have helapsed : budget - c.bp + (k + 1) * c.bp = budget + k * c.bp := by rw [Nat.succ_mul]; omega
  obtain ⟨hle, kept, sampled⟩ := helapsed ▸ h
  refine ⟨hle, fun n hnk => ?_, fun n hkn hn32 => ?_⟩
  · rw [kept n (by omega), show k + 1 - 1 - n = k - 1 - n + 1 by omega, shiftIn_getLsbD_succ _ _ (by omega)]
  · rcases Nat.eq_or_lt_of_le hkn with rfl | hlt
    · have hinstant : (k + 1) * c.bp ≤ budget + k * c.bp := by rw [Nat.succ_mul]; omega
      have hbit : w.getLsbD (31 - k) = bitOf c (intervalLevel c ((et + p) % c.n)) := by
        rw [kept k (Nat.lt_succ_self k), Nat.add_sub_cancel, Nat.sub_self, shiftIn_getLsbD_zero]
      exact ⟨p, le_rfl, hle, sampledBy_self hinstant p samples, hbit, hlast⟩
    · exact sampled n hlt hn32

/-- The reconstruction samples the frame at its instants: the budget is the elapsed time less the bits emitted
(42_frame_decoder.md R209 to R211, R225). -/
theorem rebuildFrame_samplesFrame {c : Config.Params} (hn : c.n % 2 = 0) {et fuel budget k p : Nat} {l : Level}
    {word : Word} {samples : List Word} {w : Word} {last : Nat} (hk : k ≤ 32)
    (hl : l = intervalLevel c ((et + p) % c.n))
    (h : rebuildFrame c fuel l budget k p word samples = some (w, last)) :
    SamplesFrame c et (budget + k * c.bp) k p word samples w last := by
  induction fuel generalizing l budget k p word samples with
  | zero => cases h
  | succ fuel ih =>
    rcases Nat.eq_or_lt_of_le hk with rfl | hk
    · obtain ⟨rfl, rfl⟩ := rebuildFrame_of_full h
      exact ⟨le_rfl, fun n _ => rfl, fun n hle hlt => absurd hlt (Nat.not_lt.2 hle)⟩
    rcases Nat.lt_or_ge budget c.bp with hb | hb
    · cases samples with
      | nil =>
        rw [rebuildFrame_short hk hb] at h
        cases h
      | cons v rest =>
        rw [rebuildFrame_consume hk hb] at h
        have hlevel : l.flip = intervalLevel c ((et + (p + 1)) % c.n) := by
          rw [hl, ← intervalLevel_succ hn, Nat.add_assoc]
        exact (ih hk.le hlevel h).consume hb
    · rw [rebuildFrame_emit hk hb] at h
      refine .emit hk hb ?_ (hl ▸ ih hk hl h)
      rintro rfl
      exact (rebuildFrame_of_full h).2.symm

/-! ## The synchronization search -/

/-- The offsets `q - 1` and `q`, holding `prev` and `v`, are the frame start marker (42_frame_decoder.md R205). -/
def SyncMarker (c : Config.Params) (et q : Nat) (prev v : Word) : Prop :=
  1 ≤ q ∧ intervalLevel c ((et + q - 1) % c.n) = .low ∧ 40 * c.bp < prev.toNat ∧ v.toNat < 2 * c.bp

/-- The search stops at the marker. -/
theorem findSync_of_marker {c : Config.Params} {et q : Nat} {prev v : Word} (h : SyncMarker c et q prev v)
    (rest : List Word) : findSync c et q prev (v :: rest) = some (q, rest) := if_pos h

/-- The search passes over every sample that does not complete the marker. -/
theorem findSync_of_not_marker {c : Config.Params} {et q : Nat} {prev v : Word} (h : ¬SyncMarker c et q prev v)
    (rest : List Word) : findSync c et q prev (v :: rest) = findSync c et (q + 1) v rest := if_neg h

/-- The search stops after a sample at LOW. -/
theorem findSync_level {c : Config.Params} {et q q' : Nat} {prev : Word} {samples rest : List Word}
    (h : findSync c et q prev samples = some (q', rest)) :
    1 ≤ q' ∧ intervalLevel c ((et + q' - 1) % c.n) = .low := by
  induction samples generalizing q prev with
  | nil => cases h
  | cons v samples ih =>
    by_cases hm : SyncMarker c et q prev v
    · rw [findSync_of_marker hm] at h
      cases h
      obtain ⟨hq, hlow, -⟩ := hm
      exact ⟨hq, hlow⟩
    · rw [findSync_of_not_marker hm] at h
      exact ih h

/-- So the sync pulse it stops at is at HIGH (42_frame_decoder.md R208). -/
theorem intervalLevel_of_findSync {c : Config.Params} (hn : c.n % 2 = 0) {et q q' : Nat} {prev : Word}
    {samples rest : List Word} (h : findSync c et q prev samples = some (q', rest)) :
    Level.high = intervalLevel c ((et + q') % c.n) := by
  obtain ⟨hq, hlow⟩ := findSync_level h
  rw [show et + q' = et + q' - 1 + 1 by omega, intervalLevel_succ hn, hlow]
  rfl

/-- A search that finds no marker goes on with the samples that follow, the last one before them in mind. -/
theorem findSync_append {c : Config.Params} {et q : Nat} {prev low : Word} {before : List Word}
    (h : findSync c et q prev (before ++ [low]) = none) (rest : List Word) :
    findSync c et q prev (before ++ low :: rest) = findSync c et (q + before.length + 1) low rest := by
  induction before generalizing q prev with
  | nil =>
    by_cases hm : SyncMarker c et q prev low
    · cases (findSync_of_marker hm []).symm.trans h
    · exact findSync_of_not_marker hm rest
  | cons v before ih =>
    by_cases hm : SyncMarker c et q prev v
    · cases (findSync_of_marker hm _).symm.trans h
    · have hnone := (findSync_of_not_marker hm (before ++ [low])).symm.trans h
      refine (findSync_of_not_marker hm (before ++ low :: rest)).trans ((ih hnone).trans ?_)
      rw [List.length_cons, Nat.add_right_comm q 1, Nat.add_assoc q before.length 1]

/-! ## Ideal timing -/

/-- Bits shifted in one after the other (42_frame_decoder.md R210). -/
def shiftInAll (w : Word) (bs : List Bool) : Word := bs.foldl shiftIn w

/-- The last of them stands at bit 0, and the ones before it above. -/
theorem shiftInAll_getLsbD (w : Word) (bs : List Bool) {i : Nat} (hi : i < 32) (hlen : i < bs.length) :
    (shiftInAll w bs).getLsbD i = bs[bs.length - 1 - i] := by
  induction bs using List.reverseRecOn generalizing i with
  | nil => exact absurd hlen (Nat.not_lt_zero _)
  | append_singleton bs b ih =>
    have hfold : shiftInAll w (bs ++ [b]) = shiftIn (shiftInAll w bs) b := List.foldl_append
    rw [hfold]
    cases i with
    | zero =>
      rw [shiftIn_getLsbD_zero]
      simp
    | succ i =>
      rw [List.length_append, List.length_singleton] at hlen
      rw [shiftIn_getLsbD_succ _ _ hi, ih (by omega) (by omega), List.getElem_append_left (by simp; omega)]
      congr 1
      simp
      omega

@[simp] theorem length_frameBitList (w : Word) : (frameBitList w).length = 32 := by simp [frameBitList]; rfl

/-- Its bits shifted in one after the other, bit 31 first, give the frame. -/
theorem shiftInAll_frameBitList (w : Word) : shiftInAll 0 (frameBitList w) = w := by
  refine BitVec.eq_of_getLsbD_eq fun i hi => ?_
  rw [shiftInAll_getLsbD _ _ hi (by simpa using hi)]
  have hindex : 31 - ((frameBitList w).length - 1 - i) = i := by rw [length_frameBitList]; omega
  simp only [frameBitList, List.getElem_map, List.getElem_range] at hindex ⊢
  rw [hindex]

/-- The other level has the other bit (42_frame_decoder.md R210). -/
theorem bitOf_flip (c : Config.Params) (l : Level) : bitOf c l.flip = !bitOf c l := by
  cases l <;> cases h : c.oneLevel <;> simp [bitOf, Level.flip, h]

theorem exists_runLengths_cons (b : Bool) (bs : List Bool) : ∃ r rs, runLengths (b :: bs) = r :: rs := by
  unfold runLengths
  split
  · split <;> exact ⟨_, _, rfl⟩
  · exact ⟨_, _, rfl⟩

/-- A further bit of the same value makes the first run longer. -/
theorem runLengths_same {b : Bool} {bs : List Bool} {r : Nat} {rs : List Nat} (h : runLengths (b :: bs) = r :: rs) :
    runLengths (b :: b :: bs) = (r + 1) :: rs := by
  unfold runLengths
  simp only [h, if_true]

/-- A bit of the other value begins a run of its own. -/
theorem runLengths_other {b b' : Bool} (hne : b ≠ b') (bs : List Bool) :
    runLengths (b :: b' :: bs) = 1 :: runLengths (b' :: bs) := by
  obtain ⟨r, rs, h⟩ := exists_runLengths_cons b' bs
  rw [h]
  unfold runLengths
  simp only [h, if_neg hne]

/-- A run is no longer than the list. -/
theorem runLengths_head_le {b : Bool} {bs : List Bool} {r : Nat} {rs : List Nat}
    (h : runLengths (b :: bs) = r :: rs) : r ≤ bs.length + 1 := by
  induction bs generalizing b r rs with
  | nil =>
    cases h
    exact le_rfl
  | cons b' bs ih =>
    by_cases hb : b = b'
    · subst hb
      obtain ⟨r', rs', h'⟩ := exists_runLengths_cons b bs
      rw [runLengths_same h'] at h
      cases h
      exact Nat.succ_le_succ (ih h')
    · rw [runLengths_other hb] at h
      cases h
      exact Nat.succ_le_succ (Nat.zero_le _)

/-- The sample of a run of `r` equal bits sent with ideal timing: `r` bit-periods (42_frame_decoder.md R226). -/
def runSample (c : Config.Params) (r : Nat) : Word := BitVec.ofNat 32 (r * c.bp)

/-- The sync low is a sample's length at most (00_scope.md R12). -/
theorem wf_syncLow {c : Config.Params} (h : c.wf = true) : 40 * c.bp < 2 ^ 32 := by
  simp only [Config.Params.wf, Bool.and_eq_true, decide_eq_true_eq] at h
  obtain ⟨⟨⟨⟨-, hlow⟩, -⟩, -⟩, -⟩ := h
  exact hlow

/-- No run of a frame's bits overflows a sample (00_scope.md R12). -/
theorem runSample_toNat {c : Config.Params} (hbp : 40 * c.bp < 2 ^ 32) {r : Nat} (hr : r ≤ 32) :
    (runSample c r).toNat = r * c.bp := by
  have := Nat.mul_le_mul_right c.bp hr
  exact Nat.mod_eq_of_lt (by omega)

/-- The first bit of a run: its sample flips the level and leaves the budget of the other bits. -/
theorem rebuildFrame_first_bit {c : Config.Params} (hbp : 40 * c.bp < 2 ^ 32) {l : Level} {budget k r : Nat}
    (hb : budget < c.bp) (hk : k < 32) (hr : r < 32) (fuel p : Nat) (w : Word) (samples : List Word) :
    rebuildFrame c (fuel + 2) l budget k p w (runSample c (r + 1) :: samples)
      = rebuildFrame c fuel l.flip (budget + r * c.bp) (k + 1) (p + 1) (shiftIn w (bitOf c l.flip)) samples := by
  have hsum : budget + (r + 1) * c.bp = budget + r * c.bp + c.bp := by rw [Nat.succ_mul, Nat.add_assoc]
  rw [rebuildFrame_consume hk hb, runSample_toNat hbp hr, hsum, rebuildFrame_emit hk (Nat.le_add_left _ _),
    Nat.add_sub_cancel]

/-- So a run of one more bit is a run whose first bit is there already. -/
theorem rebuildFrame_longer_run {c : Config.Params} (hbp : 40 * c.bp < 2 ^ 32) {l : Level} {budget k r : Nat}
    (hb : budget < c.bp) (hk : k + 1 < 32) (hr : r < 32) (fuel p : Nat) (w : Word) (samples : List Word) :
    rebuildFrame c (fuel + 2) l budget k p w (runSample c (r + 1) :: samples)
      = rebuildFrame c (fuel + 1) l budget (k + 1) p (shiftIn w (bitOf c l.flip)) (runSample c r :: samples) := by
  rw [rebuildFrame_first_bit hbp hb (by omega) hr, rebuildFrame_consume hk hb, runSample_toNat hbp hr.le]

/-- Runs of bits sent with ideal timing are rebuilt, whatever part of a bit-period the budget holds: the level flips
from run to run as the bits do (42_frame_decoder.md R226). -/
theorem rebuildFrame_runSamples {c : Config.Params} (hbp : 40 * c.bp < 2 ^ 32) {l : Level} {budget k fuel : Nat}
    {b : Bool} {bs : List Bool} (hb : budget < c.bp) (hbit : bitOf c l.flip = b) (hlen : k + bs.length = 31)
    (hfuel : fuel = bs.length + (runLengths (b :: bs)).length) (p : Nat) (w : Word) :
    rebuildFrame c (fuel + 2) l budget k p w ((runLengths (b :: bs)).map (runSample c))
      = some (shiftInAll w (b :: bs), p + (runLengths (b :: bs)).length) := by
  induction bs generalizing b l k p w fuel with
  | nil =>
    obtain rfl : k = 31 := hlen
    have hfirst := rebuildFrame_first_bit hbp (l := l) (r := 0) hb (by decide : 31 < 32) (by decide) fuel p w []
    rw [hbit, hfuel] at hfirst
    rw [hfuel]
    exact hfirst.trans (rebuildFrame_done ..)
  | cons b' bs ih =>
    rw [List.length_cons] at hlen hfuel
    by_cases hsame : b = b'
    case pos =>
      subst hsame
      obtain ⟨r, rs, h⟩ := exists_runLengths_cons b bs
      have hr := runLengths_head_le h
      rw [runLengths_same h, List.length_cons] at hfuel
      obtain ⟨fuel, rfl⟩ : ∃ m, fuel = m + 1 := ⟨_, hfuel⟩
      have hrun := rebuildFrame_longer_run hbp (l := l) (k := k) (r := r) hb (by omega) (by omega) (fuel + 1) p w
        (rs.map (runSample c))
      have hrest := ih (k := k + 1) (fuel := fuel) hbit (by omega) (by rw [h, List.length_cons]; omega) p (shiftIn w b)
      rw [h] at hrest
      rw [runLengths_same h]
      rw [hbit] at hrun
      exact hrun.trans hrest
    case neg =>
      have hother : bitOf c l.flip.flip = b' := by
        rw [bitOf_flip, hbit]
        exact (Bool.eq_not_of_ne (Ne.symm hsame)).symm
      rw [runLengths_other hsame, List.length_cons] at hfuel
      obtain ⟨fuel, rfl⟩ : ∃ m, fuel = m + 2 := ⟨bs.length + (runLengths (b' :: bs)).length, by omega⟩
      have hrun := rebuildFrame_first_bit hbp (l := l) (k := k) (r := 0) hb (by omega) (by decide) (fuel + 2) p w
        ((runLengths (b' :: bs)).map (runSample c))
      have hrest := ih (k := k + 1) (fuel := fuel) hother (by omega) (by omega) (p + 1) (shiftIn w b)
      rw [hbit, Nat.zero_mul, Nat.add_zero] at hrun
      rw [runLengths_other hsame, List.length_cons, Nat.add_comm (runLengths _).length 1, ← Nat.add_assoc p 1]
      exact hrun.trans hrest

/-- A frame whose first bit is the one of LOW is rebuilt from its ideal samples, all 32 bits, and consumes them all
(42_frame_decoder.md R226). -/
theorem frameAfterSync_idealSamples {c : Config.Params} (hwf : c.wf = true) {w : Word}
    (hfirst : w.getLsbD 31 = bitOf c .low) (q : Nat) :
    frameAfterSync c q (idealSamples c w) = some (w, q + (idealSamples c w).length) := by
  obtain ⟨-, -, -, hpos⟩ := wf_bounds hwf
  obtain ⟨bs, hbits⟩ : ∃ bs, frameBitList w = w.getLsbD 31 :: bs := ⟨_, rfl⟩
  have hlen : bs.length = 31 := by
    have := length_frameBitList w
    rw [hbits] at this
    exact Nat.succ.inj this
  have hruns : idealSamples c w = (runLengths (w.getLsbD 31 :: bs)).map (runSample c) := by
    rw [← hbits]
    rfl
  have hbudget : c.budgetInit < c.bp := Nat.div_lt_self hpos (by decide)
  have hrebuilt := rebuildFrame_runSamples (wf_syncLow hwf) (l := .high) (k := 0) hbudget hfirst.symm
    (by rw [hlen]) rfl q 0
  rw [← hruns, ← hbits, shiftInAll_frameBitList, hlen] at hrebuilt
  rw [frameAfterSync, show (idealSamples c w).length = (runLengths (frameBitList w)).length from List.length_map _,
    ← hrebuilt]
  congr 1
  simp only [Config.frameBits]
  omega

/-! ## Classification -/

/-- The magic field as a number (30_encoding.md R94). -/
theorem magicMatches_iff (c : Config.Params) (w : Word) :
    magicMatches c w = true ↔ w.toNat / 2 ^ 20 = c.magic.toNat := by
  have hfield : (magicField w).toNat = w.toNat / 2 ^ 20 := by
    rw [magicField, BitVec.extractLsb'_toNat, Nat.shiftRight_eq_div_pow]
    exact Nat.mod_eq_of_lt (by have := w.isLt; omega)
  rw [magicMatches, beq_iff_eq, ← BitVec.toNat_inj, hfield]

/-- The type field as a number (43_frame_validation.md R255). -/
theorem typeMatches_iff (c : Config.Params) (w : Word) :
    typeMatches c w = true ↔ w.toNat / 2 ^ c.typeLsb % 2 ^ 12 = c.typeTag.toNat := by
  rw [typeMatches, beq_iff_eq, ← BitVec.toNat_inj, typeField, BitVec.extractLsb'_toNat, Nat.shiftRight_eq_div_pow]

/-- Reversed twice, a byte is itself (43_frame_validation.md R258). -/
theorem rev8_rev8 (b : Byte) : rev8 (rev8 b) = b := by
  refine BitVec.eq_of_getLsbD_eq fun i hi => ?_
  rw [rev8_getLsbD _ hi, rev8_getLsbD _ (by omega), show 7 - (7 - i) = i by omega]

/-- The height is 0 exactly when the payload is (30_encoding.md R96). -/
theorem heightField_eq_zero_iff (w : Word) : heightField w = 0 ↔ w.toNat / 2 % 2 ^ 8 = 0 := by
  have hpayload : (payload w).toNat = w.toNat / 2 % 2 ^ 8 := by
    rw [payload, BitVec.extractLsb'_toNat, Nat.shiftRight_eq_div_pow, pow_one]
  have hzero : rev8 0 = 0 := by decide
  calc heightField w = 0 ↔ payload w = 0 :=
        ⟨fun h => by rw [← rev8_rev8 (payload w), ← heightField, h, hzero], fun h => by rw [heightField, h, hzero]⟩
    _ ↔ (payload w).toNat = 0 := BitVec.toNat_inj.symm
    _ ↔ w.toNat / 2 % 2 ^ 8 = 0 := by rw [hpayload]

end Sys2Proof.Machine
end

section
/-! What an attempt that nothing interrupts comes to: each turn of the consumer keeps it, and the last one reports it
(42_frame_decoder.md R200, R223). -/

namespace Sys2Proof.Machine

/-! ## The emitting loop and the reconstruction loop -/

/-- The reconstruction loop makes the turns of the emitting loop: one for each bit it shifts in. -/
theorem rebuildFrame_emitBits {c : Config.Params} {l : Level} {turns budget k budget' k' : Nat} {w w' : Word}
    (h : emitBits c l turns (budget, w, k) = (budget', w', k')) (fuel p : Nat) (samples : List Word) :
    k ≤ k' ∧ rebuildFrame c (fuel + (k' - k)) l budget k p w samples
      = rebuildFrame c fuel l budget' k' p w' samples := by
  induction turns generalizing budget w k with
  | zero =>
    cases h
    exact ⟨le_rfl, by rw [Nat.sub_self, Nat.add_zero]⟩
  | succ turns ih =>
    rw [emitBits_succ] at h
    split at h
    case isTrue hgo =>
      obtain ⟨hle, hrest⟩ := ih h
      refine ⟨Nat.le_of_succ_le hle, ?_⟩
      rw [show fuel + (k' - k) = fuel + (k' - (k + 1)) + 1 by omega, rebuildFrame_emit hgo.2 hgo.1, hrest]
    case isFalse =>
      cases h
      exact ⟨le_rfl, by rw [Nat.sub_self, Nat.add_zero]⟩

/-! ## Verdicts -/

/-- What the reconstruction comes to (42_frame_decoder.md R200). -/
def frameVerdict (c : Config.Params) : Option (Word × Nat) → Decoded
  | none => ⟨.pollAbsent .short, none⟩
  | some (w, p) => ⟨classify c w, some p⟩

/-- What the search comes to. -/
def syncVerdict (c : Config.Params) : Option (Nat × List Word) → Decoded
  | none => ⟨.pollAbsent .noSync, none⟩
  | some (q, rest) => frameVerdict c (frameAfterSync c q rest)

theorem decodeSamples_eq (c : Config.Params) (et : Nat) (samples : List Word) :
    decodeSamples c et samples = syncVerdict c (findSync c et 0 0 samples) := by
  unfold decodeSamples
  rcases findSync c et 0 0 samples with _ | ⟨q, rest⟩
  · rfl
  · simp only [syncVerdict]
    rcases frameAfterSync c q rest with _ | ⟨w, p⟩ <;> rfl

/-- The reconstruction from offset `P + 1` on, in the state of PH_BITS or PH_COMMIT. -/
def State.rebuilt (s : State) : Option (Word × Nat) :=
  rebuildFrame s.cfg (32 - s.nb + (s.retained.drop (s.p + 1)).length + 1) s.lvl s.budget s.nb s.p s.word
    (s.retained.drop (s.p + 1))

/-- The retained samples from a retained offset on. -/
theorem retained_drop {s : State} {i : Nat} (hi : i < s.size) :
    s.retained.drop i = s.slot (s.slotOf i) :: s.retained.drop (i + 1) := by
  have hlen : i < s.retained.length := by rwa [length_retained]
  rw [List.drop_eq_getElem_cons hlen]
  simp [State.retained]

/-- From SIZE on no sample is retained. -/
theorem retained_drop_of_size_le {s : State} {i : Nat} (hi : s.size ≤ i) : s.retained.drop i = [] :=
  List.drop_eq_nil_of_le (by rwa [length_retained])

/-- The reconstruction goes one interval further with what the emitting loop makes of it. -/
theorem rebuilt_consume {s : State} (hbudget : s.budget < s.cfg.bp) (hnb : s.nb < 32) (hlt : s.p + 1 < s.size)
    {b : Nat} {w : Word} {k : Nat}
    (loop : emitBits s.cfg s.lvl.flip Config.frameBits
      (s.budget + (s.slot (s.slotOf (s.p + 1))).toNat, s.word, s.nb) = (b, w, k)) :
    s.rebuilt = rebuildFrame s.cfg (32 - k + (s.retained.drop (s.p + 1 + 1)).length + 1) s.lvl.flip b k (s.p + 1) w
      (s.retained.drop (s.p + 1 + 1)) := by
  obtain ⟨-, hk, -⟩ := emitBits_bounds hnb.le (Nat.le_add_left _ _) loop
  change k ≤ 32 at hk
  obtain ⟨hle, hemit⟩ := rebuildFrame_emitBits loop (32 - k + (s.retained.drop (s.p + 1 + 1)).length + 1) (s.p + 1)
    (s.retained.drop (s.p + 1 + 1))
  rw [← hemit, State.rebuilt, retained_drop hlt, rebuildFrame_consume hnb hbudget, List.length_cons]
  congr 1
  omega

/-- What the attempt in progress comes to if nothing interrupts it (42_frame_decoder.md R223). -/
def State.verdict (s : State) : Decoded :=
  match s.phase with
  | .idle => decodeSamples s.cfg s.tail s.retained
  | .snap => decodeSamples s.cfg s.tail s.retained
  | .sync => syncVerdict s.cfg (findSync s.cfg s.et s.q s.prev (s.retained.drop s.q))
  | .bits => frameVerdict s.cfg s.rebuilt
  | .commit => frameVerdict s.cfg s.rebuilt

theorem verdict_of_snap {s : State} (h : s.phase = .snap) : s.verdict = decodeSamples s.cfg s.tail s.retained := by
  simp only [State.verdict, h]

theorem verdict_of_sync {s : State} (h : s.phase = .sync) :
    s.verdict = syncVerdict s.cfg (findSync s.cfg s.et s.q s.prev (s.retained.drop s.q)) := by
  simp only [State.verdict, h]

theorem verdict_of_scanning {s : State} (h : s.phase = .bits ∨ s.phase = .commit) :
    s.verdict = frameVerdict s.cfg s.rebuilt := by
  rcases h with h | h <;> simp only [State.verdict, h]

/-- TAIL after an attempt that consumed `p` samples, or none (42_frame_decoder.md R222). -/
def State.tailAfter (s : State) (consumed : Option Nat) : Nat :=
  match consumed with
  | some p => s.slotOf p
  | none => s.tail

/-- The snapshot in hand is still the tail, once it is taken. -/
def State.SnapshotCurrent (s : State) : Prop := s.phase ≠ .snap → s.et = s.tail

/-- What a turn of the consumer makes of the attempt in progress: it ends it with its verdict, or goes on towards the
same verdict. -/
def AdvancesAttempt (s t : State) : Prop :=
  (t.phase = .idle ∧ t.report = .result s.verdict.result ∧ t.tail = s.tailAfter s.verdict.consumed)
    ∨ (t.phase ≠ .idle ∧ t.verdict = s.verdict ∧ t.tail = s.tail ∧ t.SnapshotCurrent)

/-- At offset 0 the sample before it does not count. -/
theorem findSync_zero_prev (c : Config.Params) (et : Nat) (prev prev' : Word) (samples : List Word) :
    findSync c et 0 prev samples = findSync c et 0 prev' samples := by
  cases samples with
  | nil => rfl
  | cons v rest =>
    have hno (x : Word) : ¬SyncMarker c et 0 x v := fun h => absurd h.1 (Nat.not_succ_le_zero 0)
    rw [findSync_of_not_marker (hno prev), findSync_of_not_marker (hno prev')]

/-! ## Turns of the consumer -/

theorem snapStep_advances {s t : State} (hp : s.phase = .snap) (h : snapStep s = .next t) : AdvancesAttempt s t := by
  cases h
  refine .inr ⟨nofun, ?_, rfl, fun _ => rfl⟩
  rw [verdict_of_snap hp, decodeSamples_eq, verdict_of_sync rfl, findSync_zero_prev _ _ 0]
  rfl

theorem syncStep_advances {s t : State} (hp : s.phase = .sync) (hcurrent : s.SnapshotCurrent)
    (h : syncStep s = .next t) : AdvancesAttempt s t := by
  have het : s.et = s.tail := hcurrent (by simp [hp])
  have hverdict := verdict_of_sync hp
  rcases syncStep_cases s with ⟨hq, e⟩ | ⟨hq, hm, e⟩ | ⟨hq, hm, e⟩ <;> cases e.symm.trans h
  · rw [retained_drop_of_size_le hq] at hverdict
    refine .inl ⟨rfl, ?_, ?_⟩ <;> rw [hverdict] <;> rfl
  · have hmarker : SyncMarker s.cfg s.et s.q s.prev (s.slot (s.slotOf s.q)) := (syncMatch_iff s _).1 hm
    rw [retained_drop hq, findSync_of_marker hmarker] at hverdict
    refine .inr ⟨nofun, ?_, rfl, fun _ => het⟩
    rw [hverdict, verdict_of_scanning (.inl rfl)]
    rfl
  · have hmarker : ¬SyncMarker s.cfg s.et s.q s.prev (s.slot (s.slotOf s.q)) :=
      mt (syncMatch_iff s _).2 (Bool.eq_false_iff.1 hm)
    rw [retained_drop hq, findSync_of_not_marker hmarker] at hverdict
    refine .inr ⟨by simp [hp], ?_, rfl, fun _ => het⟩
    rw [hverdict, verdict_of_sync (by exact hp)]
    rfl

theorem bitsStep_advances {s t : State} (hinv : s.Inv) (hp : s.phase = .bits) (hcurrent : s.SnapshotCurrent)
    (h : bitsStep s = .next t) : AdvancesAttempt s t := by
  have het : s.et = s.tail := hcurrent (by simp [hp])
  have hverdict := verdict_of_scanning (.inl hp)
  obtain ⟨hbudget, hnb⟩ := hinv.bits_budget hp
  rcases Nat.lt_or_ge (s.p + 1) s.size with hlt | hge
  · rcases hloop : emitBits s.cfg s.lvl.flip Config.frameBits
      (s.budget + (s.slot (s.slotOf (s.p + 1))).toNat, s.word, s.nb) with ⟨b, w, k⟩
    cases (bitsStep_consume hlt hloop).symm.trans h
    have hscanning : (if k = Config.frameBits then Phase.commit else .bits) = .bits
        ∨ (if k = Config.frameBits then Phase.commit else .bits) = .commit := by split <;> simp
    refine .inr ⟨fun hidle => ?_, ?_, rfl, fun _ => het⟩
    · rcases hscanning with e | e <;> cases e.symm.trans hidle
    · rw [hverdict, verdict_of_scanning hscanning, rebuilt_consume hbudget hnb hlt hloop]
      rfl
  · cases (bitsStep_short hge).symm.trans h
    rw [State.rebuilt, retained_drop_of_size_le hge, rebuildFrame_short hnb hbudget] at hverdict
    refine .inl ⟨rfl, ?_, ?_⟩ <;> rw [hverdict] <;> rfl

theorem commitStep_advances {s t : State} (hinv : s.Inv) (hp : s.phase = .commit) (hcurrent : s.SnapshotCurrent)
    (h : commitStep s = .next t) : AdvancesAttempt s t := by
  have het : s.et = s.tail := hcurrent (by simp [hp])
  obtain ⟨-, hnb⟩ := hinv.commit_budget hp
  have hverdict : s.verdict = frameVerdict s.cfg (some (s.word, s.p)) := by
    rw [verdict_of_scanning (.inr hp), State.rebuilt, hnb]
    exact congrArg _ (rebuildFrame_done ..)
  rcases commitStep_cases s with ⟨hne, e⟩ | ⟨-, -, e⟩ | ⟨-, -, e⟩ <;> cases e.symm.trans h
  · exact absurd het.symm hne
  · refine .inl ⟨rfl, ?_, ?_⟩ <;> rw [hverdict] <;> rfl

/-- Every turn of the consumer advances the attempt in progress towards its verdict. -/
theorem consumerStep_advances {s t : State} (hinv : s.Inv) (hbusy : s.phase ≠ .idle) (hcurrent : s.SnapshotCurrent)
    (h : consumerStep s = .next t) : AdvancesAttempt s t := by
  rcases consumerStep_cases s with ⟨hp, -⟩ | ⟨hp, e⟩ | ⟨hp, e⟩ | ⟨hp, e⟩ | ⟨hp, e⟩
  · exact absurd hp hbusy
  · exact snapStep_advances hp (e.symm.trans h)
  · exact syncStep_advances hp hcurrent (e.symm.trans h)
  · exact bitsStep_advances hinv hp hcurrent (e.symm.trans h)
  · exact commitStep_advances hinv hp hcurrent (e.symm.trans h)

/-! ## An attempt that nothing interrupts -/

/-- The attempt of `s` ends in `t` with the verdict `d`; the rest of the ring buffer, the capture state and the context
are as they were (42_frame_decoder.md R222, R223). -/
structure EndsAttempt (s : State) (d : Decoded) (t : State) : Prop where
  ended : t.phase = .idle
  result : t.report = .result d.result
  tail : t.tail = s.tailAfter d.consumed
  head : t.head = s.head
  buf : t.buf = s.buf
  capture : SameCapture s t
  context : SameContext s t

/-- So it does when a turn that leaves TAIL alone comes before. -/
theorem EndsAttempt.of_turn {s u t : State} {d : Decoded} (effect : ConsumerEffect s u) (htail : u.tail = s.tail)
    (h : EndsAttempt u d t) : EndsAttempt s d t := by
  obtain ⟨hhead, hbuf, hus, hidle, hactive, hline⟩ := effect.frame
  obtain ⟨hcfg, hinbox, hagent, hdraw⟩ := effect.context_eq
  have hafter : u.tailAfter d.consumed = s.tailAfter d.consumed := by
    cases d.consumed <;> simp only [State.tailAfter, State.slotOf, htail, hcfg]
  obtain ⟨hus', hidle', hactive', hline'⟩ := h.capture
  obtain ⟨hcfg', hinbox', hagent', hdraw'⟩ := h.context
  exact {
    ended := h.ended
    result := h.result
    tail := h.tail.trans hafter
    head := h.head.trans hhead
    buf := h.buf.trans hbuf
    capture := ⟨hus'.trans hus, hidle'.trans hidle, hactive'.trans hactive, hline'.trans hline⟩
    context := ⟨hcfg'.trans hcfg, hinbox'.trans hinbox, hagent'.trans hagent, hdraw'.trans hdraw⟩ }

/-- Within the turns it has left the attempt in progress ends with its verdict (42_frame_decoder.md R223, R224). -/
theorem uninterrupted_ends {bound : Nat} {s : State} (h : s.Inv) (hscan : s.ScanRetained)
    (hcurrent : s.SnapshotCurrent) (hbusy : s.phase ≠ .idle) (hin : s.inbox = []) (hbound : s.turnsLeft ≤ bound) :
    ∃ k t, k ≤ bound ∧ runSteps k s = .next t ∧ EndsAttempt s s.verdict t := by
  induction bound generalizing s with
  | zero => exact absurd (turnsLeft_pos h hbusy) (Nat.not_lt.2 hbound)
  | succ bound ih =>
    have hturn : s.consumersTurn := .inl hin
    obtain ⟨u, hstep⟩ := step_next_of_scanRetained hscan (by simp [hin])
    have hconsumer : consumerStep s = .next u := by
      rw [← hstep, step_of_consumersTurn hturn, hin, List.tail_nil, ← hin]
    have effect := consumerStep_effect hconsumer
    rcases consumerStep_advances h hbusy hcurrent hconsumer with
      ⟨hended, hresult, htail⟩ | ⟨hbusy', hverdict, htail, hcurrent'⟩
    · obtain ⟨hhead, hbuf, hcapture⟩ := effect.frame
      exact ⟨1, u, Nat.succ_le_succ (Nat.zero_le _), (runSteps_one s).trans hstep,
        ⟨hended, hresult, htail, hhead, hbuf, hcapture, effect.context_eq⟩⟩
    · obtain ⟨-, hinbox, -⟩ := effect.context_eq
      have hless := effect.turnsLeft_lt h hbusy
      obtain ⟨k, t, hk, hrun, hends⟩ :=
        ih (h.of_step hstep) effect.scanRetained hcurrent' hbusy' (hinbox.trans hin) (by omega)
      rw [hverdict] at hends
      exact ⟨k + 1, t, Nat.succ_le_succ hk, (runSteps_of_next hstep k).trans hrun, hends.of_turn effect htail⟩

end Sys2Proof.Machine
end

section
/-! Settled: the decode attempt and its frames (42_frame_decoder.md). -/

namespace Sys2Proof.Machine

/-! ## Steps of an attempt -/

/-- Settles O20: the agent, capture and PHASE pass the checks. -/
theorem pollStartsAttempt : Obligations.PollStartsAttempt := by
  unfold Obligations.PollStartsAttempt
  intro s hagent hactive hidle
  simp only [exec, execPoll, requireAgent_of_eq hagent, requireActive_of_eq hactive, requirePhaseIdle_of_eq hidle,
    State.reporting]

/-- Settles O45: the consumer's turn in PH_SNAP is the snapshot's. -/
theorem snapStepTakesSnapshot : Obligations.SnapStepTakesSnapshot := by
  unfold Obligations.SnapStepTakesSnapshot
  intro s hturn hphase
  simp only [step_of_consumersTurn hturn, consumerStep, hphase]
  rfl

/-- On the consumer's turn in PH_BITS the step is the reconstruction's, its event taken. -/
theorem step_of_phase_bits {s : State} (hturn : s.consumersTurn) (hphase : s.phase = .bits) :
    step s = bitsStep { s with inbox := s.inbox.tail } := by
  simp only [step_of_consumersTurn hturn, consumerStep, hphase]

/-- Settles O47: the emitting loop in closed form. -/
theorem bitsStepResamples : Obligations.BitsStepResamples := by
  unfold Obligations.BitsStepResamples
  intro s hturn hphase hbp hnb
  rw [step_of_phase_bits hturn hphase]
  refine ⟨fun hshort => ?_, fun hmore => ?_⟩
  · refine ⟨_, bitsStep_short hshort, rfl, rfl, ⟨rfl, rfl, fun _ => rfl⟩, ⟨rfl, rfl, rfl, rfl⟩, rfl, rfl, rfl, rfl⟩
  · have hloop := emitBits_eq hbp s.lvl.flip (Nat.le_add_left 32 s.nb)
      (s.budget + (s.slot (s.slotOf (s.p + 1))).toNat) s.word
    rw [bitsStep_consume (s := { s with inbox := s.inbox.tail }) hmore hloop]
    simp only [shiftInMany, bitOf, beq_iff_eq]
    rfl

/-- Settles O42: each check as a condition on the frame's number; the parity check holds of every frame. -/
theorem classificationFollowsChecks : Obligations.ClassificationFollowsChecks := by
  unfold Obligations.ClassificationFollowsChecks
  intro c w
  simp only [classify, parityFn, Bool.not_true, Bool.false_eq_true, if_false, Bool.not_eq_true', beq_iff_eq,
    ← Bool.not_eq_true, magicMatches_iff, typeMatches_iff, heightField_eq_zero_iff]
  rfl

/-! ## Whole attempts -/

/-- Settles O50: the step is no COMMIT command, and the attempt's own commit counts up to a retained offset. -/
theorem attemptNeverFaults : Obligations.AttemptNeverFaults := by
  unfold Obligations.AttemptNeverFaults
  intro s hinv hscan hno
  obtain ⟨t, hstep⟩ := step_next_of_scanRetained hscan hno
  exact ⟨t, hstep, scanRetained_of_step hinv hscan hno hstep⟩

/-- Settles O51: after the POLL is accepted N + 1 turns are left, and each turn of the consumer uses one up. -/
theorem attemptEndsWithinBound : Obligations.AttemptEndsWithinBound := by
  unfold Obligations.AttemptEndsWithinBound
  intro s t k hinv hphase hrun hturns
  exact reaches_idle_of_turns hinv hrun (turnsLeft_of_snap hphase ▸ hturns)

/-- Settles O52: after the POLL is accepted the attempt has N + 1 turns left, and its verdict is `Decode` of the
retained samples. -/
theorem uninterruptedAttemptComputesDecode : Obligations.UninterruptedAttemptComputesDecode := by
  unfold Obligations.UninterruptedAttemptComputesDecode
  intro s hinv hphase hin
  have hscan : s.ScanRetained := fun h => by simp [hphase] at h
  obtain ⟨k, t, hk, hrun, hends⟩ := uninterrupted_ends hinv hscan (fun h => absurd hphase h) (by simp [hphase]) hin
    (turnsLeft_of_snap hphase).le
  rw [verdict_of_snap hphase] at hends
  exact ⟨k, t, hk, hrun, hends.ended, hends.result, hends.tail, hends.head, fun j => by rw [hends.buf], hends.capture,
    hends.context⟩

/-! ## Frames -/

/-- Settles O53: the loop samples the frame from the sync high pulse on, half a bit-period having elapsed. -/
theorem bitsAreSampledAtInstants : Obligations.BitsAreSampledAtInstants := by
  unfold Obligations.BitsAreSampledAtInstants
  intro c et q samples rest w p hwf hsync hframe n hn
  obtain ⟨heven, -, -, hpos⟩ := wf_bounds hwf
  have hsampled := rebuildFrame_samplesFrame heven (Nat.zero_le _) (intervalLevel_of_findSync heven hsync) hframe
  rw [Nat.zero_mul, Nat.add_zero] at hsampled
  obtain ⟨j, hqj, hjp, ⟨hend, hfirst⟩, hbit, hlast⟩ := hsampled.sampled n (Nat.zero_le _) hn
  have hne : q ≠ j := by
    rintro rfl
    rw [Nat.sub_self, List.take_zero, List.map_nil, List.sum_nil, Nat.add_zero, Nat.succ_mul] at hend
    have hhalf : c.budgetInit < c.bp := Nat.div_lt_self hpos (by decide)
    omega
  exact ⟨j, lt_of_le_of_ne hqj hne, hjp, hend, fun i hqi hij => hfirst i hqi.le hij, hbit, hlast⟩

/-- Settles O54: the search finds no marker before the one given, and the ideal samples are the frame's. -/
theorem idealTimingRoundTrip : Obligations.IdealTimingRoundTrip := by
  unfold Obligations.IdealTimingRoundTrip
  intro c et before low high w hwf hnone hlevel hlow hhigh hfirst
  have hmarker : SyncMarker c et (before.length + 1) low high := ⟨Nat.succ_pos _, hlevel, hlow, hhigh⟩
  have hframe := frameAfterSync_idealSamples hwf hfirst (before.length + 1)
  refine ⟨hframe, ?_⟩
  rw [decodeSamples, findSync_append hnone, Nat.zero_add, findSync_of_marker hmarker]
  simp only [hframe]

end Sys2Proof.Machine
end

section
/-! Settled: frame validation (43_frame_validation.md). The checks of a frame come first, as arithmetic on its number,
then the reversal of a byte. -/

namespace Sys2Proof.Machine

/-! ## VALID, PARITY and ISNUM -/

/-- The parity check holds of every frame, so a frame is valid exactly when its magic field matches
(43_frame_validation.md R250, R252). -/
theorem frameValid_iff (c : Config.Params) (w : Word) :
    frameValid c w = true ↔ w.toNat / 2 ^ 20 = c.magic.toNat := by
  rw [frameValid, parityFn, Bool.and_true, magicMatches_iff]

/-- VALID by any agent in any state (43_frame_validation.md R250). -/
theorem exec_valid (w : Word) (s : State) : exec (.valid w) s = complete (.truth (frameValid s.cfg w)) s := rfl

/-- PARITY by any agent in any state (43_frame_validation.md R252). -/
theorem exec_parity (w : Word) (s : State) : exec (.parity w) s = complete (.truth (parityFn w)) s := rfl

/-- ISNUM by any agent in any state (43_frame_validation.md R254). -/
theorem exec_isnum (w : Word) (s : State) : exec (.isnum w) s = complete (.truth (typeMatches s.cfg w)) s := rfl

/-- Settles O37: what VALID answers is the magic check as arithmetic. -/
theorem validChecksMagic : Obligations.ValidChecksMagic := by
  unfold Obligations.ValidChecksMagic
  intro s w
  have hvalid : frameValid s.cfg w = decide (w.toNat / 2 ^ 20 = s.cfg.magic.toNat) :=
    Bool.eq_iff_iff.2 ((frameValid_iff s.cfg w).trans decide_eq_true_iff.symm)
  rw [exec_valid, hvalid]
  rfl

/-- Settles O38: PARITY completes with the parity function of its frame, which is true of every frame. -/
theorem parityAlwaysHolds : Obligations.ParityAlwaysHolds := by
  unfold Obligations.ParityAlwaysHolds
  intro s w
  rw [exec_parity, parityFn]
  rfl

/-- Settles O39: what ISNUM answers is the comparison of the type field as arithmetic. -/
theorem isnumChecksTypeTag : Obligations.IsnumChecksTypeTag := by
  unfold Obligations.IsnumChecksTypeTag
  intro s w
  have hnumber : typeMatches s.cfg w = decide (w.toNat / 2 ^ s.cfg.typeLsb % 2 ^ 12 = s.cfg.typeTag.toNat) :=
    Bool.eq_iff_iff.2 ((typeMatches_iff s.cfg w).trans decide_eq_true_iff.symm)
  rw [exec_isnum, hnumber]
  rfl

/-! ## The reversal of a byte -/

/-- The low nibble of a byte, reversed, is the high nibble of the reversed byte (43_frame_validation.md R258). -/
theorem rev8_toNat (b : Byte) :
    (rev8 b).toNat = (rev4 (b.extractLsb' 0 4)).toNat * 16 + (rev4 (b.extractLsb' 4 4)).toNat := by
  rw [rev8, BitVec.toNat_append, ← Nat.shiftLeft_add_eq_or_of_lt (rev4 (b.extractLsb' 4 4)).isLt, Nat.shiftLeft_eq]

/-- Settles O41: the bits and the nibbles of the reversed byte; the sixteen nibbles are evaluated. -/
theorem revEightReversesBits : Obligations.RevEightReversesBits := by
  unfold Obligations.RevEightReversesBits
  refine ⟨fun b => ⟨fun i hi => rev8_getLsbD b hi, rev8_toNat b, rev8_rev8 b⟩, fun n i hi => rev4_getLsbD n hi, ?_⟩
  decide

end Sys2Proof.Machine
end

section
/-! Settled: commands out of their lifecycle state, and an INIT that fails (44_interface.md, 60_exceptions.md R305). -/

namespace Sys2Proof.Machine

/-! ## The lifecycle checks that fail -/

/-- The ACTIVE check refuses while capture is inactive (60_exceptions.md R306 check 3). -/
theorem requireActive_of_inactive {s : State} (h : s.active = false) (k : StepResult) :
    requireActive s k = refuse .notActive s := if_neg (Bool.eq_false_iff.1 h)

/-- The PHASE check refuses while a POLL is in progress (60_exceptions.md R306 check 4). -/
theorem requirePhaseIdle_of_ne_idle {s : State} (h : s.phase ≠ .idle) (k : StepResult) :
    requirePhaseIdle s k = refuse .pollInProgress s := if_neg h

/-! ## Commands in the wrong lifecycle state -/

/-- An operation that needs capture makes the ACTIVE check next after the agent check, so while capture is inactive its
body is not reached (60_exceptions.md R306 checks 2 and 3). -/
theorem exec_of_inactive {i : Instr} {s : State} (hmay : mayIssue s.agent i = true) (hneeds : needsActive i = true)
    (hactive : s.active = false) : exec i s = refuse .notActive s := by
  have refused {a : Agent} (hagent : (s.agent == a) = true) (k : StepResult) :
      requireAgent a s (requireActive s k) = refuse .notActive s :=
    (requireAgent_of_eq (beq_iff_eq.1 hagent) _).trans (requireActive_of_inactive hactive k)
  cases i with
  | teardown | poll | push | peek | snap | commit => exact refused hmay _
  | init | edge | valid | parity | isnum | height => cases hneeds

/-- INIT by the host while capture is active (44_interface.md R283). -/
theorem exec_init_of_already_active {s : State} (hagent : s.agent = .host) (hactive : s.active = true) :
    exec .init s = refuse .alreadyActive s := by
  simp only [exec, execInit, requireAgent_of_eq hagent, hactive, if_true]

/-- POLL by the host during a POLL (60_exceptions.md R305). -/
theorem exec_poll_of_busy {s : State} (hagent : s.agent = .host) (hactive : s.active = true) (hbusy : s.phase ≠ .idle) :
    exec .poll s = refuse .pollInProgress s := by
  simp only [exec, execPoll, requireAgent_of_eq hagent, requireActive_of_eq hactive, requirePhaseIdle_of_ne_idle hbusy]

/-- TEARDOWN by the host during a POLL (60_exceptions.md R305). -/
theorem exec_teardown_of_busy {s : State} (hagent : s.agent = .host) (hactive : s.active = true)
    (hbusy : s.phase ≠ .idle) : exec .teardown s = refuse .pollInProgress s := by
  simp only [exec, execTeardown, requireAgent_of_eq hagent, requireActive_of_eq hactive,
    requirePhaseIdle_of_ne_idle hbusy]

/-- Settles O15: each clause is the refusal of the check that fails, the agent check passed. -/
theorem lifecycleMisuseIsRefused : Obligations.LifecycleMisuseIsRefused := by
  unfold Obligations.LifecycleMisuseIsRefused
  intro i s hmay
  refine ⟨fun hneeds hactive => exec_of_inactive hmay hneeds hactive, ?alreadyActive, ?pollInProgress⟩
  case alreadyActive =>
    rintro rfl hactive
    exact exec_init_of_already_active (beq_iff_eq.1 hmay) hactive
  case pollInProgress =>
    rintro (rfl | rfl) hactive hbusy
    · exact exec_poll_of_busy (beq_iff_eq.1 hmay) hactive hbusy
    · exact exec_teardown_of_busy (beq_iff_eq.1 hmay) hactive hbusy

/-! ## A failed INIT -/

/-- INIT by the host while capture is inactive, its outcome drawn INIT_FAIL (44_interface.md R282). -/
theorem exec_init_of_fail {s : State} (hagent : s.agent = .host) (hactive : s.active = false)
    (hfail : s.draw.initOk = false) : exec .init s = complete .initFail s := by
  simp [exec, execInit, requireAgent_of_eq hagent, hactive, hfail]

/-- Settles O18: the drawn failure completes with INIT_FAIL on the state as it was. -/
theorem failedInitChangesNothing : Obligations.FailedInitChangesNothing := by
  unfold Obligations.FailedInitChangesNothing
  intro s hagent hactive hfail
  exact exec_init_of_fail hagent hactive hfail

end Sys2Proof.Machine
end

section
/-! Settled: what a refusal and the edge handler leave alone (60_exceptions.md R305, R313). -/

namespace Sys2Proof.Machine

/-! ## Refusals -/

/-- If the answer `k` to a command on `s` reports a refusal, its state is `s` with that report. -/
def RefusesUnchanged (s : State) (k : StepResult) : Prop :=
  ∀ t c, k = .next t → t.report = .refused c → t = s.reporting (.refused c)

namespace RefusesUnchanged

theorem refuse (c : RefusalCode) (s : State) : RefusesUnchanged s (refuse c s) := by
  rintro _ _ ⟨⟩ ⟨⟩
  rfl

theorem fault (s : State) (f : Fault) : RefusesUnchanged s (.fault f) := by rintro _ _ ⟨⟩

theorem next {u : State} (s : State) (h : ∀ c, u.report ≠ .refused c) : RefusesUnchanged s (.next u) := by
  rintro _ c ⟨⟩ hreport
  exact absurd hreport (h c)

theorem complete (r : Result) (s u : State) : RefusesUnchanged s (complete r u) := next s nofun

theorem ite {s : State} {p : Prop} [Decidable p] {k k' : StepResult} (h : RefusesUnchanged s k)
    (h' : RefusesUnchanged s k') : RefusesUnchanged s (if p then k else k') := by
  split
  · exact h
  · exact h'

theorem requireAgent {s : State} {k : StepResult} (a : Agent) (h : RefusesUnchanged s k) :
    RefusesUnchanged s (requireAgent a s k) := h.ite (refuse _ s)

theorem requireActive {s : State} {k : StepResult} (h : RefusesUnchanged s k) :
    RefusesUnchanged s (requireActive s k) := h.ite (refuse _ s)

theorem requirePhaseIdle {s : State} {k : StepResult} (h : RefusesUnchanged s k) :
    RefusesUnchanged s (requirePhaseIdle s k) := h.ite (refuse _ s)

end RefusesUnchanged

/-- COMMIT's body completes or faults; a stale tail is an answer and no refusal (40_ring_buffer.md R138, R139). -/
theorem execCommit_refusesUnchanged (et c : Byte) (s : State) : RefusesUnchanged s (execCommit et c s) := by
  refine .requireAgent _ (.requireActive ?_)
  rcases commitTail_cases et.toNat c.toNat s with ⟨-, e⟩ | ⟨-, -, e⟩ | ⟨-, -, e⟩ <;> rw [e]
  · exact .complete _ s _
  · exact .fault s _
  · exact .complete _ s _

/-- Every operation makes its checks before it changes anything, and once they have passed it no longer refuses
(60_exceptions.md R306). -/
theorem exec_refusesUnchanged (i : Instr) (s : State) : RefusesUnchanged s (exec i s) := by
  cases i with
  | init => exact .requireAgent _ (.ite (.refuse _ s) (.ite (.complete _ s _) (.complete _ s _)))
  | teardown => exact .requireAgent _ (.requireActive (.requirePhaseIdle (.complete _ s _)))
  | poll => exact .requireAgent _ (.requireActive (.requirePhaseIdle (.next s nofun)))
  | edge => exact .requireAgent _ (.ite (.complete _ s _) (.next s nofun))
  | push | peek | snap => exact .requireAgent _ (.requireActive (.complete _ s _))
  | commit et c => exact execCommit_refusesUnchanged et c s
  | valid | parity | isnum | height => exact .complete _ s _

/-- Settles O16: no operation refuses after it has changed something. -/
theorem refusedCommandChangesNothing : Obligations.RefusedCommandChangesNothing := by
  unfold Obligations.RefusedCommandChangesNothing
  intro i s t c hexec hreport
  exact exec_refusesUnchanged i s t c hexec hreport

/-! ## The edge handler and the polling context -/

theorem sameDecoder_reporting (s : State) (r : Report) : SameDecoder s (s.reporting r) :=
  ⟨rfl, rfl, rfl, rfl, rfl, rfl, rfl, rfl, rfl⟩

/-- The edge taken reads no register of the decoder: exchanging them before it or after it comes to the same. -/
theorem takeEdge_withDecoderOf (l : Level) (now : Word) (s d : State) :
    takeEdge l now (s.withDecoderOf d) = (takeEdge l now s).withDecoderOf d := by
  by_cases h : l = edgeLevelFor s.cfg s.head
  · rw [takeEdge_of_eq h, takeEdge_of_eq (s := s.withDecoderOf d) h]
    rfl
  · rw [takeEdge_of_ne h, takeEdge_of_ne (s := s.withDecoderOf d) h]
    rfl

/-- Settles O26: EDGE is refused, is a no-op, or takes the edge, and neither its checks nor the edge taken involve the
decoder's registers. -/
theorem edgeIgnoresDecoderRegisters : Obligations.EdgeIgnoresDecoderRegisters := by
  unfold Obligations.EdgeIgnoresDecoderRegisters
  intro s d lvl now
  by_cases hagent : s.agent = .producer
  · cases hactive : s.active with
    | false =>
      exact ⟨_, edgeWhileInactiveIsNoOp s lvl now hagent hactive, sameDecoder_reporting s .noOp,
        edgeWhileInactiveIsNoOp (s.withDecoderOf d) lvl now hagent hactive⟩
    | true =>
      refine ⟨_, exec_edge_of_active hagent hactive lvl now, (takeEdge_frame lvl now s).1, ?_⟩
      rw [exec_edge_of_active (s := s.withDecoderOf d) hagent hactive, takeEdge_withDecoderOf]
      rfl
  · have hmay : mayIssue s.agent (.edge lvl now) = false := beq_eq_false_iff_ne.2 hagent
    exact ⟨_, wrongAgentIsRefused _ s hmay, sameDecoder_reporting s (.refused .wrongContext),
      wrongAgentIsRefused _ (s.withDecoderOf d) hmay⟩

end Sys2Proof.Machine
end
